-- ==== Sys2Proof/Word.lean ====
section
/-! DEFINITION. The two word types of the hardware (spec/00_scope.md R14). -/

namespace Sys2Proof

/-- R14: a `byte` (`u8`), bit 0 least significant. Also the type of a memory byte and of Acc, RegX, RegY (R5). -/
abbrev Byte := BitVec 8

/-- R14: a `u16`; the type of PC, SP and every effective address (R5). `+` on it is the spec's `+16`, as `+` on `Byte` is `+8` (R15). -/
abbrev Word := BitVec 16

end Sys2Proof
end

