-- ==== Sys2Proof/Config.lean ====
section
/-! DEFINITION. The names of the instruction set and the types of the two named parameters the spec keeps open
(spec/00_scope.md R6), which everything above `exec` takes as one configuration, `Parameters`. The chosen VALUES stand where a
repair can reach them: `decodeTable`, `cycleAccounting` and `chosenParameters` in Decode.lean. The spec needs no free value (93_implementation_defined.md part 1), so there is no
opaque constant here. -/

namespace Sys2Proof

/-- R2: the seven mnemonics. -/
inductive Mnemonic where
  | lda | ldx | ldy | jmp | sec | sed | and
  deriving DecidableEq, Repr

/-- R81: the ten modes of `Resolve`. Relative is defined and used by no opcode (R91); Indirect-Indexed is not a mode (R93). -/
inductive Mode where
  | implied | immediate | zeroPage | zeroPageX | zeroPageY
  | absolute | absoluteX | absoluteY | indirect | relative
  deriving DecidableEq, Repr

/-- R72, R95: how many operand bytes a mode consumes. -/
def Mode.operandBytes : Mode → Nat
  | .implied => 0
  | .immediate | .zeroPage | .zeroPageX | .zeroPageY | .relative => 1
  | .absolute | .absoluteX | .absoluteY | .indirect => 2

/-- One row of `DECODE_TABLE` (R6, R66): an opcode byte and the (instruction, addressing mode) pair it selects. -/
structure TableRow where
  opcode   : Byte
  mnemonic : Mnemonic
  mode     : Mode
  deriving DecidableEq, Repr

/-- R6: the two values of `CYCLE_ACCOUNTING`, what one unit of the run budget pays for. -/
inductive CycleAccounting where
  | perOpcodeFetch
  | perFetchedByte
  deriving DecidableEq, Repr

/-- R6: the configuration of the model: both named parameters, so that a claim can name the values it rests on. The table is data, so
it does not change at run time and depends on no state (R67 (e)). -/
structure Parameters where
  /-- `DECODE_TABLE`, the partial function from a byte to a pair: the first row with that opcode. -/
  table      : List TableRow
  /-- `CYCLE_ACCOUNTING`. -/
  accounting : CycleAccounting
  deriving DecidableEq, Repr

end Sys2Proof
end

