-- ==== Sys2Proof/Syntax.lean ====
section
/-! DEFINITION. The instructions: one constructor per row of spec/opcode_table.json, in the table's order (spec/30_encoding.md
R66). An operand byte `nn` is the row's `op8`; an operand word `nnnn` is `{hi, lo}` (R63, R65). -/

namespace Sys2Proof

inductive Instr where
  /-- 0x29 `AND #$nn` (R135) -/
  | andImm (nn : Byte)
  /-- 0x38 `SEC` (R130) -/
  | sec
  /-- 0x4C `JMP $nnnn` (R121) -/
  | jmpAbs (nnnn : Word)
  /-- 0x6C `JMP ($nnnn)` (R122) -/
  | jmpInd (nnnn : Word)
  /-- 0xA0 `LDY #$nn` (R112) -/
  | ldyImm (nn : Byte)
  /-- 0xA2 `LDX #$nn` (R107) -/
  | ldxImm (nn : Byte)
  /-- 0xA4 `LDY $nn` (R113) -/
  | ldyZp (nn : Byte)
  /-- 0xA5 `LDA $nn` (R102) -/
  | ldaZp (nn : Byte)
  /-- 0xA6 `LDX $nn` (R108) -/
  | ldxZp (nn : Byte)
  /-- 0xA9 `LDA #$nn` (R101) -/
  | ldaImm (nn : Byte)
  /-- 0xAC `LDY $nnnn` (R115) -/
  | ldyAbs (nnnn : Word)
  /-- 0xAD `LDA $nnnn` (R104) -/
  | ldaAbs (nnnn : Word)
  /-- 0xAE `LDX $nnnn` (R110) -/
  | ldxAbs (nnnn : Word)
  /-- 0xB4 `LDY $nn,X` (R114) -/
  | ldyZpX (nn : Byte)
  /-- 0xB5 `LDA $nn,X` (R103) -/
  | ldaZpX (nn : Byte)
  /-- 0xB6 `LDX $nn,Y` (R109) -/
  | ldxZpY (nn : Byte)
  /-- 0xB9 `LDA $nnnn,Y` (R106) -/
  | ldaAbsY (nnnn : Word)
  /-- 0xBC `LDY $nnnn,X` (R116) -/
  | ldyAbsX (nnnn : Word)
  /-- 0xBD `LDA $nnnn,X` (R105) -/
  | ldaAbsX (nnnn : Word)
  /-- 0xBE `LDX $nnnn,Y` (R111) -/
  | ldxAbsY (nnnn : Word)
  /-- 0xF8 `SED` (R131) -/
  | sed
  deriving DecidableEq, Repr

end Sys2Proof
end

