-- ==== Sys2Proof/WellFormed.lean ====
section
/-! DEFINITION. What is checked about an instruction as written down: the (mnemonic, mode) pair is one the hardware has
(spec/30_encoding.md R66, spec/41_loads.md R119) and the operand has as many bytes as the mode consumes (R72). Operand widths are
fixed by the types of `Instr`, so a term of `Instr` cannot hold an operand that is too wide (DESIGN CHOICE, log 19). -/

namespace Sys2Proof

/-- R66, R95, R119, R136: the 21 pairs that exist. -/
def isForm : Mnemonic → Mode → Bool
  | .lda, .immediate | .lda, .zeroPage | .lda, .zeroPageX | .lda, .absolute | .lda, .absoluteX | .lda, .absoluteY => true
  | .ldx, .immediate | .ldx, .zeroPage | .ldx, .zeroPageY | .ldx, .absolute | .ldx, .absoluteY => true
  | .ldy, .immediate | .ldy, .zeroPage | .ldy, .zeroPageX | .ldy, .absolute | .ldy, .absoluteX => true
  | .jmp, .absolute | .jmp, .indirect => true
  | .sec, .implied | .sed, .implied => true
  | .and, .immediate => true
  | _, _ => false

/-- An instruction as a row and its operand bytes in memory order: what an assembly line of R74 stands for. -/
structure Listing where
  mnemonic : Mnemonic
  mode     : Mode
  operands : List Byte
  deriving DecidableEq, Repr

/-- The pair exists and the operand has the mode's number of bytes. -/
def Listing.wellFormed (l : Listing) : Bool :=
  isForm l.mnemonic l.mode && l.operands.length == l.mode.operandBytes

/-- The mnemonic of an instruction's row (R66). -/
def Instr.mnemonic : Instr → Mnemonic
  | .andImm _ => .and
  | .sec => .sec
  | .jmpAbs _ => .jmp
  | .jmpInd _ => .jmp
  | .ldyImm _ => .ldy
  | .ldxImm _ => .ldx
  | .ldyZp _ => .ldy
  | .ldaZp _ => .lda
  | .ldxZp _ => .ldx
  | .ldaImm _ => .lda
  | .ldyAbs _ => .ldy
  | .ldaAbs _ => .lda
  | .ldxAbs _ => .ldx
  | .ldyZpX _ => .ldy
  | .ldaZpX _ => .lda
  | .ldxZpY _ => .ldx
  | .ldaAbsY _ => .lda
  | .ldyAbsX _ => .ldy
  | .ldaAbsX _ => .lda
  | .ldxAbsY _ => .ldx
  | .sed => .sed

/-- The addressing mode of an instruction's row (R66, R95). -/
def Instr.mode : Instr → Mode
  | .andImm _ => .immediate
  | .sec => .implied
  | .jmpAbs _ => .absolute
  | .jmpInd _ => .indirect
  | .ldyImm _ => .immediate
  | .ldxImm _ => .immediate
  | .ldyZp _ => .zeroPage
  | .ldaZp _ => .zeroPage
  | .ldxZp _ => .zeroPage
  | .ldaImm _ => .immediate
  | .ldyAbs _ => .absolute
  | .ldaAbs _ => .absolute
  | .ldxAbs _ => .absolute
  | .ldyZpX _ => .zeroPageX
  | .ldaZpX _ => .zeroPageX
  | .ldxZpY _ => .zeroPageY
  | .ldaAbsY _ => .absoluteY
  | .ldyAbsX _ => .absoluteX
  | .ldaAbsX _ => .absoluteX
  | .ldxAbsY _ => .absoluteY
  | .sed => .implied

/-- The check on a term of `Instr`: its row exists. It holds of every term (Laws/PerInstr.lean), because the types leave nothing
ill-formed to write. -/
def Instr.wellFormed (i : Instr) : Bool := isForm i.mnemonic i.mode

end Sys2Proof
end

