-- ==== Sys2Proof/Decode.lean ====
section
/-! DEFINITION. The opcode decoder (spec/30_encoding.md) over any bytes, and after it the encoder. Total, rejecting by name. -/

namespace Sys2Proof

/-- R14: `{h, l}` is `h * 256 + l`. -/
def word16 (hi lo : Byte) : Word := BitVec.ofNat 16 (hi.toNat * 256 + lo.toNat)

/-- R14: `w[7:0]`. -/
def lowByte (w : Word) : Byte := BitVec.ofNat 8 w.toNat

/-- R14: `w[15:8]`. -/
def highByte (w : Word) : Byte := BitVec.ofNat 8 (w.toNat / 256)

/-- R66: the value the spec chose for the parameter `DECODE_TABLE` (PRESUMED but for 0xA9, 0xA2 and no row at 0xFF: D1, D2; log 1, 2). -/
def decodeTable : List TableRow :=
  [ ⟨0x29#8, .and, .immediate⟩,
    ⟨0x38#8, .sec, .implied⟩,
    ⟨0x4C#8, .jmp, .absolute⟩,
    ⟨0x6C#8, .jmp, .indirect⟩,
    ⟨0xA0#8, .ldy, .immediate⟩,
    ⟨0xA2#8, .ldx, .immediate⟩,
    ⟨0xA4#8, .ldy, .zeroPage⟩,
    ⟨0xA5#8, .lda, .zeroPage⟩,
    ⟨0xA6#8, .ldx, .zeroPage⟩,
    ⟨0xA9#8, .lda, .immediate⟩,
    ⟨0xAC#8, .ldy, .absolute⟩,
    ⟨0xAD#8, .lda, .absolute⟩,
    ⟨0xAE#8, .ldx, .absolute⟩,
    ⟨0xB4#8, .ldy, .zeroPageX⟩,
    ⟨0xB5#8, .lda, .zeroPageX⟩,
    ⟨0xB6#8, .ldx, .zeroPageY⟩,
    ⟨0xB9#8, .lda, .absoluteY⟩,
    ⟨0xBC#8, .ldy, .absoluteX⟩,
    ⟨0xBD#8, .lda, .absoluteX⟩,
    ⟨0xBE#8, .ldx, .absoluteY⟩,
    ⟨0xF8#8, .sed, .implied⟩ ]

/-- R6: the chosen value of `CYCLE_ACCOUNTING` (DESIGN CHOICE: C1, D4; log 3). -/
def cycleAccounting : CycleAccounting := .perOpcodeFetch

/-- R6: both chosen values. -/
def chosenParameters : Parameters := ⟨decodeTable, cycleAccounting⟩

/-- R64: the row whose opcode is the whole byte `op`. -/
def lookupRow (table : List TableRow) (op : Byte) : Option TableRow :=
  table.find? (fun r => r.opcode == op)

/-- The opcode bytes of a table that use a mode, in the table's order (R95). -/
def opcodesUsing (table : List TableRow) (m : Mode) : List Byte :=
  (table.filter (fun r => r.mode == m)).map TableRow.opcode

/-- R72: the length of the instruction that starts with `op`; 1 where the byte has no row. -/
def lengthFor (table : List TableRow) (op : Byte) : Nat :=
  match lookupRow table op with
  | none => 1
  | some r => 1 + r.mode.operandBytes

/-- The spec's sentences give a row an effect: its mode returns an address (R82: Implied returns none), or its instruction needs none.
Every row of the chosen table has one (DESIGN CHOICE for other tables, log 2). -/
def TableRow.hasMeaning (r : TableRow) : Bool :=
  r.mode != .implied || r.mnemonic == .sec || r.mnemonic == .sed

/-- R65: the instruction a pair and its operand bytes stand for; none for a pair the chosen table does not have (R119) and for an operand
of another length. -/
def Listing.toInstr (l : Listing) : Option Instr :=
  match l.mnemonic, l.mode, l.operands with
  | .and, .immediate, [nn] => some (.andImm nn)
  | .sec, .implied, [] => some .sec
  | .jmp, .absolute, [lo, hi] => some (.jmpAbs (word16 hi lo))
  | .jmp, .indirect, [lo, hi] => some (.jmpInd (word16 hi lo))
  | .ldy, .immediate, [nn] => some (.ldyImm nn)
  | .ldx, .immediate, [nn] => some (.ldxImm nn)
  | .ldy, .zeroPage, [nn] => some (.ldyZp nn)
  | .lda, .zeroPage, [nn] => some (.ldaZp nn)
  | .ldx, .zeroPage, [nn] => some (.ldxZp nn)
  | .lda, .immediate, [nn] => some (.ldaImm nn)
  | .ldy, .absolute, [lo, hi] => some (.ldyAbs (word16 hi lo))
  | .lda, .absolute, [lo, hi] => some (.ldaAbs (word16 hi lo))
  | .ldx, .absolute, [lo, hi] => some (.ldxAbs (word16 hi lo))
  | .ldy, .zeroPageX, [nn] => some (.ldyZpX nn)
  | .lda, .zeroPageX, [nn] => some (.ldaZpX nn)
  | .ldx, .zeroPageY, [nn] => some (.ldxZpY nn)
  | .lda, .absoluteY, [lo, hi] => some (.ldaAbsY (word16 hi lo))
  | .ldy, .absoluteX, [lo, hi] => some (.ldyAbsX (word16 hi lo))
  | .lda, .absoluteX, [lo, hi] => some (.ldaAbsX (word16 hi lo))
  | .ldx, .absoluteY, [lo, hi] => some (.ldxAbsY (word16 hi lo))
  | .sed, .implied, [] => some .sed
  | _, _, _ => none

/-- Why bytes are no instruction. -/
inductive DecodeError where
  /-- There is no byte to decode. -/
  | noBytes
  /-- R68: the byte has no row of the table (DEDUCED for the bytes of absent instructions: D16; log 14). -/
  | unrecognizedOpcode (op : Byte)
  /-- The bytes end before the operand that R72 asks for. -/
  | operandMissing (op : Byte)
  /-- A table other than the chosen one may pair an instruction that works through an address with Implied, which returns none; no
  sentence of the spec gives that an effect (log 2). -/
  | noSuchForm (op : Byte)
  deriving DecidableEq, Repr

/-- What the decoder answers: an instruction and the bytes after it, or why there is none. -/
inductive Decoded where
  | instr (i : Instr) (rest : List Byte)
  /-- A pair of a table other than the chosen one, with its operand bytes: it is no row of R66, so no constructor of `Instr`, and
  `execForm` (Machine/Forms.lean) says what it does. -/
  | form (l : Listing) (rest : List Byte)
  | rejected (e : DecodeError)
  deriving DecidableEq, Repr

/-- R60, R72, R73: decode the instruction at the head of a list of bytes under a given table, and say what is left. -/
def decodeWith (table : List TableRow) : List Byte → Decoded
  | [] => .rejected .noBytes
  | op :: rest =>
    match lookupRow table op with
    | none => .rejected (.unrecognizedOpcode op)
    | some r =>
      if rest.length < r.mode.operandBytes then .rejected (.operandMissing op)
      else
        let l : Listing := ⟨r.mnemonic, r.mode, rest.take r.mode.operandBytes⟩
        match l.toInstr with
        | some i => .instr i (rest.drop r.mode.operandBytes)
        | none => if r.hasMeaning then .form l (rest.drop r.mode.operandBytes) else .rejected (.noSuchForm op)

/-- The decoder of this hardware. -/
def decode (bytes : List Byte) : Decoded := decodeWith decodeTable bytes

/-- The instruction of R66 alone, where there is one. -/
def decodeInstrWith (table : List TableRow) (bytes : List Byte) : Option Instr :=
  match decodeWith table bytes with
  | .instr i _ => some i
  | .form _ _ => none
  | .rejected _ => none

/-- The `k`-th byte of a number whose first byte is its lowest (`k` counts from 0). -/
def byteOf (w k : Nat) : Byte := BitVec.ofNat 8 (w / 256 ^ k)

/-- The three bytes, lowest address first, of an instruction whose bits, numbered as spec/opcode_table.json numbers them, are the
low `nbits` bits of `w`; every bit above is 0. -/
def tableWordBytes (nbits w : Nat) : List Byte :=
  let v := w % 2 ^ nbits
  [byteOf v 0, byteOf v 1, byteOf v 2]

/-- The instruction the decoder reads from a word of spec/opcode_table.json. -/
def decodeTableWord (nbits w : Nat) : Option Instr := decodeInstrWith decodeTable (tableWordBytes nbits w)

/-- R66: the opcode byte of an instruction. -/
def Instr.opcode : Instr → Byte
  | .andImm _ => 0x29#8
  | .sec => 0x38#8
  | .jmpAbs _ => 0x4C#8
  | .jmpInd _ => 0x6C#8
  | .ldyImm _ => 0xA0#8
  | .ldxImm _ => 0xA2#8
  | .ldyZp _ => 0xA4#8
  | .ldaZp _ => 0xA5#8
  | .ldxZp _ => 0xA6#8
  | .ldaImm _ => 0xA9#8
  | .ldyAbs _ => 0xAC#8
  | .ldaAbs _ => 0xAD#8
  | .ldxAbs _ => 0xAE#8
  | .ldyZpX _ => 0xB4#8
  | .ldaZpX _ => 0xB5#8
  | .ldxZpY _ => 0xB6#8
  | .ldaAbsY _ => 0xB9#8
  | .ldyAbsX _ => 0xBC#8
  | .ldaAbsX _ => 0xBD#8
  | .ldxAbsY _ => 0xBE#8
  | .sed => 0xF8#8

/-- R62, R63: the operand bytes of an instruction in memory order, low byte before high byte. -/
def Instr.operands : Instr → List Byte
  | .andImm nn | .ldyImm nn | .ldxImm nn | .ldaImm nn => [nn]
  | .ldyZp nn | .ldaZp nn | .ldxZp nn | .ldyZpX nn | .ldaZpX nn | .ldxZpY nn => [nn]
  | .jmpAbs nnnn | .jmpInd nnnn => [lowByte nnnn, highByte nnnn]
  | .ldyAbs nnnn | .ldaAbs nnnn | .ldxAbs nnnn => [lowByte nnnn, highByte nnnn]
  | .ldaAbsY nnnn | .ldyAbsX nnnn | .ldaAbsX nnnn | .ldxAbsY nnnn => [lowByte nnnn, highByte nnnn]
  | .sec | .sed => []

/-- R60 to R63: the bytes of an instruction, opcode first. -/
def encode (i : Instr) : List Byte := i.opcode :: i.operands

end Sys2Proof
end

