-- ==== Sys2Proof/Machine/State.lean ====
section
/-! DEFINITION. The state of the machine as plain data (spec/10_state.md), and the state after reset (spec/70_reset_and_hazards.md
R180). -/

namespace Sys2Proof.Machine

/-- R20: the three general 8-bit registers, by name. -/
inductive Reg where
  | acc | regX | regY
  deriving DecidableEq, Repr

/-- R160: the two reportable conditions. Neither stops the machine; the payloads are those of R161 and R162 (DESIGN CHOICE: D6; log 4). -/
inductive Diagnostic where
  /-- R161: the rejected 16-bit jump target. -/
  | invalidJumpTarget (t : Word)
  /-- R162: the byte that has no row, and the address it was fetched from. -/
  | unrecognizedOpcode (op : Byte) (a : Word)
  deriving DecidableEq, Repr

/-- R37, R40: the memory as (address, byte) cells. In canonical form (`Memory.wf`, Machine/Ops.lean) the addresses rise strictly,
lie below 65,536, and no cell holds 0x00, which is what an address without a cell reads as (R42, R43). -/
abbrev Memory := List Host.Cell

/-- The whole architectural state (spec/10_state.md, the table at its head; SP: log 10, the flags: log 11, 18), and `reports`, which is the model's own (DESIGN CHOICE, log 4): the
diagnostics put out so far on the interface of R13, oldest first. No instruction reads `reports` (R168). -/
structure State where
  pc      : Word
  sp      : Word
  acc     : Byte
  regX    : Byte
  regY    : Byte
  flagC   : Bool
  flagZ   : Bool
  flagI   : Bool
  flagD   : Bool
  flagB   : Bool
  flagV   : Bool
  flagN   : Bool
  mem     : Memory
  reports : List Diagnostic
  deriving DecidableEq, Repr

/-- The reasons the machine may stop with a fault: none. R140: a step "never blocks, faults, halts or refuses"; R165: "Nothing else
is reported or faulted". The type is empty so that no outcome of this model can be a fault (DEDUCED, log 16). -/
inductive Fault
  deriving DecidableEq, Repr

/-- The reasons an instruction may have no meaning. -/
inductive Refusal where
  /-- Raised by an arm of `exec` whose instruction has no meaning yet; no arm of this model does (log 16). Safe: a run that met it
  would stop where the hardware goes on. -/
  | notModelled (mnemonic : String)
  /-- Raised by `stepWith` alone, under a decode table other than the chosen one that pairs LDA, LDX, LDY, AND or JMP with Implied: the
  instruction works through an address and the mode returns none (R82). The chosen table holds no such row, so `step` never answers
  it (log 2). Safe: such a run stops. -/
  | noSuchForm (op : Byte)
  deriving DecidableEq, Repr

/-- R39, R180: the machine right after reset. -/
def State.reset : State where
  pc      := 0xFFFC#16
  sp      := 0x0100#16
  acc     := 0x00#8
  regX    := 0x00#8
  regY    := 0x00#8
  flagC   := false
  flagZ   := false
  flagI   := false
  flagD   := false
  flagB   := false
  flagV   := false
  flagN   := false
  mem     := []
  reports := []

end Sys2Proof.Machine
end

