-- ==== Sys2Proof/Machine/Ops.lean ====
section
/-! DEFINITION. The named operations over memory and registers (spec/20_memory.md R40 to R44, spec/00_scope.md R16, R17), the
reporting of a diagnostic (R19, R167), and the jump with its target check (spec/42_jumps.md R120 to R122). The hardware has no trap:
`State.report` and `State.consumeUnrecognized` are all that stands in the place of an exception's entry, and there is no return. -/

namespace Sys2Proof.Machine

/-- The three outcomes of a step of this machine. -/
abbrev Outcome := Host.Outcome State Fault Refusal

/-- Go on from a next state; a fault or a refusal ends the matter. -/
def onNext (o : Outcome) (f : State → Outcome) : Outcome :=
  match o with
  | .next s => f s
  | .fault r => .fault r
  | .refused r => .refused r

/-- R5: the memory's size in bytes. -/
def memorySize : Nat := 65536

/-- What an address that has no cell reads as: the byte `init` leaves (R42, R43). -/
def initByte : Byte := 0x00#8

/-- R43: `init()`, after which every byte is 0. -/
def Memory.init : Memory := []

/-- The byte of the cell at exactly `a`. -/
def Memory.cell : Memory → Nat → Byte
  | [], _ => initByte
  | (k, v) :: rest, a => if k = a then v else Memory.cell rest a

/-- R42: `read`, the address taken modulo 65536. -/
def Memory.read (m : Memory) (addr : Nat) : Byte := m.cell (addr % memorySize)

/-- Put a cell before the first cell of a higher address. -/
def Memory.insert (c : Host.Cell) : Memory → Memory
  | [] => [c]
  | d :: rest => if c.1 < d.1 then c :: d :: rest else d :: Memory.insert c rest

/-- Take every cell at exactly `a` away. -/
def Memory.erase (m : Memory) (a : Nat) : Memory := m.filter (fun c => c.1 != a)

/-- R41: `write`, the address taken modulo 65536. Writing 0x00 leaves no cell. -/
def Memory.write (m : Memory) (addr : Nat) (v : Byte) : Memory :=
  let a := addr % memorySize
  if v = initByte then m.erase a else (m.erase a).insert (a, v)

/-- The canonical form (DESIGN CHOICE, log 12): addresses rise strictly and lie in the address space, and no cell holds 0x00. -/
def Memory.wf : Memory → Bool
  | [] => true
  | (a, v) :: rest => decide (a < memorySize) && v != initByte && rest.all (fun c => decide (a < c.1)) && Memory.wf rest

/-- R17: `MemRead(addr, 1)` at an effective address. -/
def State.memRead (s : State) (a : Word) : Byte := s.mem.read a.toNat

/-- R45, R90: the little-endian 16-bit quantity at `p`; the high byte is at `p +16 1` (R52; DEDUCED: D8; log 6). -/
def State.memRead16 (s : State) (p : Word) : Word := word16 (s.memRead (p + 1#16)) (s.memRead p)

/-- R16: the value of a general register. -/
def State.readReg (s : State) : Reg → Byte
  | .acc => s.acc
  | .regX => s.regX
  | .regY => s.regY

/-- R16, R20: write a general register; none is hardwired and none shares storage. -/
def State.writeReg (s : State) (r : Reg) (v : Byte) : State :=
  match r with
  | .acc => { s with acc := v }
  | .regX => { s with regX := v }
  | .regY => { s with regY := v }

/-- R16: `PC <- target`. -/
def State.setPc (s : State) (t : Word) : State := { s with pc := t }

/-- R24, R80: advance PC by `n` bytes, wrapping at 65536. -/
def State.advance (s : State) (n : Nat) : State := s.setPc (s.pc + BitVec.ofNat 16 n)

/-- R13, R19: `report d` puts one diagnostic out and changes nothing else. -/
def State.report (s : State) (d : Diagnostic) : State := { s with reports := s.reports ++ [d] }

/-- R120: `JumpTargetValid(t)`, outside the stack page 0x0100 to 0x01FF and the vector area 0xFFFA to 0xFFFF. Nothing else
is restricted (DEDUCED: D15; log 13). -/
def jumpTargetValid (t : Word) : Bool :=
  !(decide (0x0100 ≤ t.toNat) && decide (t.toNat ≤ 0x01FF)) && !(decide (0xFFFA ≤ t.toNat) && decide (t.toNat ≤ 0xFFFF))

/-- R121, R122: what both jumps do with a resolved target, on a state whose PC is already past the instruction: take it, or report
it and leave PC there. -/
def State.jumpTo (s : State) (t : Word) : State :=
  if jumpTargetValid t then s.setPc t else s.report (.invalidJumpTarget t)

/-- R68, R140, R162: a byte `op` with no row, fetched at PC, is consumed and reported. -/
def State.consumeUnrecognized (s : State) (op : Byte) : State :=
  (s.advance 1).report (.unrecognizedOpcode op s.pc)

end Sys2Proof.Machine
end

