-- ==== Sys2Proof/Machine/Flags.lean ====
section
/-! DEFINITION. Every flag computation: `SetZN` (spec/41_loads.md R100) and the two flag sets (spec/43_flag_set.md R130, R131). -/

namespace Sys2Proof.Machine

/-- R100: Zero iff `v` is 0x00, Negative iff bit 7 of `v`; both always written, nothing else (U10: the rule the source adopts;
DEDUCED, log 20). -/
def State.setZN (s : State) (v : Byte) : State := { s with flagZ := v == 0x00#8, flagN := v.getLsbD 7 }

/-- R130: Carry to 1. -/
def State.setCarry (s : State) : State := { s with flagC := true }

/-- R131: DecimalMode to 1. -/
def State.setDecimal (s : State) : State := { s with flagD := true }

/-- The state with seven given flags, used to say that no step depends on a flag (R35). -/
def State.withFlags (s : State) (c z i d b v n : Bool) : State :=
  { s with flagC := c, flagZ := z, flagI := i, flagD := d, flagB := b, flagV := v, flagN := n }

end Sys2Proof.Machine
end

