-- ==== Sys2Proof/Machine/FlagSet.lean ====
section
/-! DEFINITION. The two flag-set instructions (spec/43_flag_set.md R130, R131). A meaning starts with PC at the opcode byte (DESIGN CHOICE, log 15). -/

namespace Sys2Proof.Machine

/-- R130: `SEC`. -/
def execSec (s : State) : Outcome := .next (s.setCarry.advance 1)

/-- R131: `SED`. -/
def execSed (s : State) : Outcome := .next (s.setDecimal.advance 1)

end Sys2Proof.Machine
end

