-- ==== Sys2Proof/Machine/Operands.lean ====
section
/-! DEFINITION. Every operand form: the effective address of each mode from its operand (spec/30_encoding.md R65), and the spec's own
`Fetch()` and `Resolve(mode)` over the instruction stream (spec/40_addressing_modes.md R80 to R91). The instruction meanings use the
first; Machine/Stream.lean runs the machine through the second. -/

namespace Sys2Proof.Machine

/-- R15: `zext_16`. -/
def zext16 (b : Byte) : Word := b.zeroExtend 16

/-- R15: `sext_16`. -/
def sext16 (b : Byte) : Word := b.signExtend 16

/-- R84: Zero Page. -/
def zeroPageAddr (nn : Byte) : Word := zext16 nn

/-- R85: Zero Page,X; the sum is truncated to 8 bits before it is extended. -/
def zeroPageXAddr (nn : Byte) (s : State) : Word := zext16 (nn + s.regX)

/-- R86: Zero Page,Y. -/
def zeroPageYAddr (nn : Byte) (s : State) : Word := zext16 (nn + s.regY)

/-- R87: Absolute. -/
def absoluteAddr (nnnn : Word) : Word := nnnn

/-- R88: Absolute,X; a 16-bit sum that may cross a page and wraps at the top. -/
def absoluteXAddr (nnnn : Word) (s : State) : Word := nnnn + zext16 s.regX

/-- R89: Absolute,Y. -/
def absoluteYAddr (nnnn : Word) (s : State) : Word := nnnn + zext16 s.regY

/-- R90: Indirect; the 16-bit pointer stored at the operand address. -/
def indirectAddr (nnnn : Word) (s : State) : Word := s.memRead16 nnnn

/-- R91: Relative, from the PC after the offset byte. No opcode uses it (DEDUCED: D9; log 7). -/
def relativeAddr (o : Byte) (s : State) : Word := s.pc + sext16 o

/-- R80: `Fetch()`, the byte at PC, and the state with PC advanced by 1. -/
def fetch (s : State) : Byte × State := (s.memRead s.pc, s.advance 1)

/-- Two calls of `Fetch()`, low byte first: `{hi, lo}` (R87). -/
def fetch16 (s : State) : Word × State :=
  let lo := fetch s
  let hi := fetch lo.2
  (word16 hi.1 lo.1, hi.2)

/-- R81 to R91: `Resolve(mode)`, on entry with PC at the first operand byte. -/
def resolve (m : Mode) (s : State) : Option Word × State :=
  match m with
  | .implied => (none, s)
  | .immediate => (some s.pc, s.advance 1)
  | .zeroPage => let z := fetch s; (some (zeroPageAddr z.1), z.2)
  | .zeroPageX => let z := fetch s; (some (zeroPageXAddr z.1 z.2), z.2)
  | .zeroPageY => let z := fetch s; (some (zeroPageYAddr z.1 z.2), z.2)
  | .absolute => let p := fetch16 s; (some (absoluteAddr p.1), p.2)
  | .absoluteX => let p := fetch16 s; (some (absoluteXAddr p.1 p.2), p.2)
  | .absoluteY => let p := fetch16 s; (some (absoluteYAddr p.1 p.2), p.2)
  | .indirect => let p := fetch16 s; (some (indirectAddr p.1 p.2), p.2)
  | .relative => let o := fetch s; (some (relativeAddr o.1 o.2), o.2)

end Sys2Proof.Machine
end

