-- ==== Sys2Proof/Machine/Jumps.lean ====
section
/-! DEFINITION. The two jumps (spec/42_jumps.md R121, R122). A meaning starts with PC at the opcode byte (DESIGN CHOICE, log 15). -/

namespace Sys2Proof.Machine

/-- R121: `JMP $nnnn`; a rejected target leaves PC past the three bytes (DEDUCED: C2, D7; log 5). -/
def execJmpAbs (nnnn : Word) (s : State) : Outcome := .next ((s.advance 3).jumpTo (absoluteAddr nnnn))

/-- R122: `JMP ($nnnn)`; the check is on the pointer read, not on its address. -/
def execJmpInd (nnnn : Word) (s : State) : Outcome := .next ((s.advance 3).jumpTo (indirectAddr nnnn s))

end Sys2Proof.Machine
end

