-- ==== Sys2Proof/Machine/Loads.lean ====
section
/-! DEFINITION. The 16 load instructions (spec/41_loads.md R101 to R116). A meaning starts with PC at the opcode byte (DESIGN CHOICE, log 15), so it
advances PC by the instruction's length (spec/10_state.md R25). -/

namespace Sys2Proof.Machine

/-- What every load does with the byte `v`: the register, then `SetZN(v)`. -/
def State.loadByte (s : State) (r : Reg) (v : Byte) : State := (s.writeReg r v).setZN v

/-- A load of a literal byte: Immediate, two bytes long. -/
def loadImmediate (r : Reg) (nn : Byte) (s : State) : Outcome := .next ((s.loadByte r nn).advance 2)

/-- A load of the byte at an effective address, by an instruction of `len` bytes. -/
def loadFrom (r : Reg) (len : Nat) (ea : Word) (s : State) : Outcome := .next ((s.loadByte r (s.memRead ea)).advance len)

/-- R101: `LDA #$nn`. -/
def execLdaImm (nn : Byte) (s : State) : Outcome := loadImmediate .acc nn s

/-- R102: `LDA $nn`. -/
def execLdaZp (nn : Byte) (s : State) : Outcome := loadFrom .acc 2 (zeroPageAddr nn) s

/-- R103: `LDA $nn,X`. -/
def execLdaZpX (nn : Byte) (s : State) : Outcome := loadFrom .acc 2 (zeroPageXAddr nn s) s

/-- R104: `LDA $nnnn`. -/
def execLdaAbs (nnnn : Word) (s : State) : Outcome := loadFrom .acc 3 (absoluteAddr nnnn) s

/-- R105: `LDA $nnnn,X`. -/
def execLdaAbsX (nnnn : Word) (s : State) : Outcome := loadFrom .acc 3 (absoluteXAddr nnnn s) s

/-- R106: `LDA $nnnn,Y`. -/
def execLdaAbsY (nnnn : Word) (s : State) : Outcome := loadFrom .acc 3 (absoluteYAddr nnnn s) s

/-- R107: `LDX #$nn`. -/
def execLdxImm (nn : Byte) (s : State) : Outcome := loadImmediate .regX nn s

/-- R108: `LDX $nn`. -/
def execLdxZp (nn : Byte) (s : State) : Outcome := loadFrom .regX 2 (zeroPageAddr nn) s

/-- R109: `LDX $nn,Y`. -/
def execLdxZpY (nn : Byte) (s : State) : Outcome := loadFrom .regX 2 (zeroPageYAddr nn s) s

/-- R110: `LDX $nnnn`. -/
def execLdxAbs (nnnn : Word) (s : State) : Outcome := loadFrom .regX 3 (absoluteAddr nnnn) s

/-- R111: `LDX $nnnn,Y`. -/
def execLdxAbsY (nnnn : Word) (s : State) : Outcome := loadFrom .regX 3 (absoluteYAddr nnnn s) s

/-- R112: `LDY #$nn`. -/
def execLdyImm (nn : Byte) (s : State) : Outcome := loadImmediate .regY nn s

/-- R113: `LDY $nn`. -/
def execLdyZp (nn : Byte) (s : State) : Outcome := loadFrom .regY 2 (zeroPageAddr nn) s

/-- R114: `LDY $nn,X`. -/
def execLdyZpX (nn : Byte) (s : State) : Outcome := loadFrom .regY 2 (zeroPageXAddr nn s) s

/-- R115: `LDY $nnnn`. -/
def execLdyAbs (nnnn : Word) (s : State) : Outcome := loadFrom .regY 3 (absoluteAddr nnnn) s

/-- R116: `LDY $nnnn,X`. -/
def execLdyAbsX (nnnn : Word) (s : State) : Outcome := loadFrom .regY 3 (absoluteXAddr nnnn s) s

end Sys2Proof.Machine
end

