-- ==== Sys2Proof/Machine/Logical.lean ====
section
/-! DEFINITION. The one logical instruction (spec/44_logical.md R135). A meaning starts with PC at the opcode byte (DESIGN CHOICE, log 15). -/

namespace Sys2Proof.Machine

/-- `Acc <- Acc & m; SetZN(Acc)`. -/
def State.andAcc (s : State) (m : Byte) : State :=
  let r := s.acc &&& m
  (s.writeReg .acc r).setZN r

/-- R135: `AND #$nn`. -/
def execAndImm (nn : Byte) (s : State) : Outcome := .next ((s.andAcc nn).advance 2)

end Sys2Proof.Machine
end

