-- ==== Sys2Proof/Machine/Dispatch.lean ====
section
/-! DEFINITION. One arm per instruction (spec/45_step_and_run.md R141). -/

namespace Sys2Proof.Machine

def exec (i : Instr) (s : State) : Host.Outcome State Fault Refusal :=
  match i with
  | .andImm nn => Sys2Proof.Machine.execAndImm nn s
  | .sec => Sys2Proof.Machine.execSec s
  | .jmpAbs nnnn => Sys2Proof.Machine.execJmpAbs nnnn s
  | .jmpInd nnnn => Sys2Proof.Machine.execJmpInd nnnn s
  | .ldyImm nn => Sys2Proof.Machine.execLdyImm nn s
  | .ldxImm nn => Sys2Proof.Machine.execLdxImm nn s
  | .ldyZp nn => Sys2Proof.Machine.execLdyZp nn s
  | .ldaZp nn => Sys2Proof.Machine.execLdaZp nn s
  | .ldxZp nn => Sys2Proof.Machine.execLdxZp nn s
  | .ldaImm nn => Sys2Proof.Machine.execLdaImm nn s
  | .ldyAbs nnnn => Sys2Proof.Machine.execLdyAbs nnnn s
  | .ldaAbs nnnn => Sys2Proof.Machine.execLdaAbs nnnn s
  | .ldxAbs nnnn => Sys2Proof.Machine.execLdxAbs nnnn s
  | .ldyZpX nn => Sys2Proof.Machine.execLdyZpX nn s
  | .ldaZpX nn => Sys2Proof.Machine.execLdaZpX nn s
  | .ldxZpY nn => Sys2Proof.Machine.execLdxZpY nn s
  | .ldaAbsY nnnn => Sys2Proof.Machine.execLdaAbsY nnnn s
  | .ldyAbsX nnnn => Sys2Proof.Machine.execLdyAbsX nnnn s
  | .ldaAbsX nnnn => Sys2Proof.Machine.execLdaAbsX nnnn s
  | .ldxAbsY nnnn => Sys2Proof.Machine.execLdxAbsY nnnn s
  | .sed => Sys2Proof.Machine.execSed s

end Sys2Proof.Machine
end

