-- ==== Sys2Proof/Machine/Forms.lean ====
section
/-! DEFINITION. What a row of ANY decode table does: the parameter of spec/00_scope.md R6 admits every pair of a mnemonic and a mode, and
the source states each instruction over what its mode resolves to. For the 21 pairs of R66 this is a second description of the
meanings `exec` dispatches to; for the others it is the only one. -/

namespace Sys2Proof.Machine

/-- The rule of a mnemonic through the spec's `Resolve(mode)`, on a state whose PC is past the opcode byte: a load reads "one byte from
the resolved address" (spec/41_loads.md), JMP "sets PC to the resolved 16-bit address" subject to its check (R120, R121), SEC and SED
set their flag and need no address (R130, R131). AND takes the byte at the resolved address, as R135 does (DESIGN CHOICE for a mode
other than Immediate, which R136 says the chosen table does not have; log 2). None where the mode returns no address and the
mnemonic needs one. -/
def execForm (mn : Mnemonic) (m : Mode) (s : State) : Option State :=
  let r := resolve m s
  match mn, r.1 with
  | .lda, some ea => some (r.2.loadByte .acc (r.2.memRead ea))
  | .ldx, some ea => some (r.2.loadByte .regX (r.2.memRead ea))
  | .ldy, some ea => some (r.2.loadByte .regY (r.2.memRead ea))
  | .and, some ea => some (r.2.andAcc (r.2.memRead ea))
  | .jmp, some t => some (r.2.jumpTo t)
  | .sec, _ => some r.2.setCarry
  | .sed, _ => some r.2.setDecimal
  | .lda, none | .ldx, none | .ldy, none | .and, none | .jmp, none => none

end Sys2Proof.Machine
end

