-- ==== Sys2Proof/Machine/Cycle.lean ====
section
/-! DEFINITION. Fetching an instruction's bytes, and `Step()` under any decode table (spec/45_step_and_run.md R140). -/

namespace Sys2Proof.Machine

/-- R60: the `n` bytes at consecutive addresses from `a`, wrapping at 65536. -/
def State.bytesAt (s : State) (a : Word) : Nat → List Byte
  | 0 => []
  | n + 1 => s.memRead a :: s.bytesAt (a + 1#16) n

/-- R140: the byte at PC is looked up; a byte with no row is consumed and reported; otherwise the row's instruction is executed
with the operand bytes that follow it, as many as its mode consumes (R72). A pair that only another table holds is executed through
its resolved address (R6, log 2). -/
def stepWith (table : List TableRow) (s : State) : Outcome :=
  let op := s.memRead s.pc
  match lookupRow table op with
  | none => .next (s.consumeUnrecognized op)
  | some r =>
    match Listing.toInstr ⟨r.mnemonic, r.mode, s.bytesAt (s.pc + 1#16) r.mode.operandBytes⟩ with
    | some i => exec i s
    | none =>
      match execForm r.mnemonic r.mode (s.advance 1) with
      | some t => .next t
      | none => .refused (.noSuchForm op)

/-- The instruction whose bytes stand at PC, if they are one. Three bytes are the longest instruction (R60). -/
def State.instrAt (s : State) : Option Instr := decodeInstrWith decodeTable (s.bytesAt s.pc 3)

/-- Write bytes at consecutive addresses from `a`, wrapping at 65536. -/
def State.placeBytes (s : State) (a : Word) : List Byte → State
  | [] => s
  | b :: rest => State.placeBytes { s with mem := s.mem.write a.toNat b } (a + 1#16) rest

end Sys2Proof.Machine
end

