-- ==== Sys2Proof/Machine/Step.lean ====
section
/-! DEFINITION. The one transition of the machine (spec/45_step_and_run.md R140) under the chosen decode table. -/

namespace Sys2Proof.Machine

/-- R140: `Step()`, under the chosen `DECODE_TABLE` (R6). -/
def step (s : State) : Host.Outcome State Fault Refusal := stepWith decodeTable s

/-- The word of spec/opcode_table.json placed at PC, where the next step fetches; it stands for the host's load (R10; DESIGN CHOICE, log 9). -/
def State.withFetchWord (s : State) (nbits w : Nat) : State := s.placeBytes s.pc (tableWordBytes nbits w)

end Sys2Proof.Machine
end

