-- ==== Sys2Proof/Machine/Stream.lean ====
section
/-! DEFINITION. `Step()` written a second time as the spec's pseudocode runs it: the opcode byte is fetched, `Resolve(mode)` consumes
the operand from the stream, the instruction works through the address returned (spec/45_step_and_run.md R140, R141, with R101 to
R135), under any decode table. `step` (Machine/Step.lean) is the machine; that the two agree is a statement for the provers. -/

namespace Sys2Proof.Machine

/-- R140: `Step()`, statement by statement, under any decode table. -/
def streamStepWith (table : List TableRow) (s : State) : Option State :=
  let a := s.pc
  let f := fetch s
  match lookupRow table f.1 with
  | none => some (f.2.report (.unrecognizedOpcode f.1 a))
  | some row => execForm row.mnemonic row.mode f.2

/-- R140: `Step()`, statement by statement, under the chosen table. -/
def streamStep (s : State) : Option State := streamStepWith decodeTable s

end Sys2Proof.Machine
end

