-- ==== Sys2Proof/Machine/Run.lean ====
section
/-! DEFINITION. `Run(budget)` under any value of the two parameters of R6, and under the chosen ones (spec/45_step_and_run.md R144 to
R148). -/

namespace Sys2Proof.Machine

/-- R144: `Run(budget)` under `per_opcode_fetch`, one unit a step. -/
def runPerOpcodeFetch (table : List TableRow) : Nat → State → Outcome
  | 0, s => .next s
  | budget + 1, s => onNext (stepWith table s) (runPerOpcodeFetch table budget)

/-- R144: the loop of `Run_per_fetched_byte`; the first argument bounds the number of steps (each pays for at least one byte). -/
def runBytesLoop (table : List TableRow) : Nat → Nat → State → Outcome
  | 0, _, s => .next s
  | _ + 1, 0, s => .next s
  | fuel + 1, budget + 1, s =>
    onNext (stepWith table s) (runBytesLoop table fuel (budget + 1 - lengthFor table (s.memRead s.pc)))

/-- R144: `Run_per_fetched_byte(budget)`; a started instruction completes and the budget stops at zero (DESIGN CHOICE: D22; log 3). -/
def runPerFetchedByte (table : List TableRow) (budget : Nat) (s : State) : Outcome := runBytesLoop table budget budget s

/-- R6, R144: `Run(budget)` under a value of both parameters. -/
def runWith (p : Parameters) (budget : Nat) (s : State) : Outcome :=
  match p.accounting with
  | .perOpcodeFetch => runPerOpcodeFetch p.table budget s
  | .perFetchedByte => runPerFetchedByte p.table budget s

/-- R11: `Run(budget)`, under the chosen parameters. -/
def run (budget : Nat) (s : State) : Outcome := runWith chosenParameters budget s

/-- R13, R144: the diagnostics put out between two states, in order. -/
def reportsSince (before after : State) : List Diagnostic := after.reports.drop before.reports.length

end Sys2Proof.Machine
end

