-- ==== Sys2Proof/Machine/HostOps.lean ====
section
/-! DEFINITION. What the host may do between runs (spec/00_scope.md R8 to R13, spec/45_step_and_run.md R149). -/

namespace Sys2Proof.Machine

/-- R8, R180: `Reset()`. It retracts no diagnostic already put out and puts none out (R169; DEDUCED: D20; log 17). -/
def State.hostReset (s : State) : State := { State.reset with reports := s.reports }

/-- R41: `MemWrite(addr, 1, v)` by the host, at any address (R10, R50, R58). -/
def State.hostWrite (s : State) (addr : Nat) (v : Byte) : State := { s with mem := s.mem.write addr v }

/-- R10: the loader's pairs, written in list order. -/
def State.hostLoad (s : State) (pairs : List (Word × Byte)) : State :=
  pairs.foldl (fun t p => t.hostWrite p.1.toNat p.2) s

/-- R42: `MemRead(addr, 1)` by the host. -/
def State.hostRead (s : State) (addr : Nat) : Byte := s.mem.read addr

/-- What the read-only accessors of R12 show. -/
structure Inspection where
  pc    : Word
  sp    : Word
  acc   : Byte
  regX  : Byte
  regY  : Byte
  flagC : Bool
  flagZ : Bool
  flagI : Bool
  flagD : Bool
  flagB : Bool
  flagV : Bool
  flagN : Bool
  deriving DecidableEq, Repr

/-- R12: inspection; it changes no state. -/
def State.inspect (s : State) : Inspection where
  pc := s.pc
  sp := s.sp
  acc := s.acc
  regX := s.regX
  regY := s.regY
  flagC := s.flagC
  flagZ := s.flagZ
  flagI := s.flagI
  flagD := s.flagD
  flagB := s.flagB
  flagV := s.flagV
  flagN := s.flagN

/-- R149: the moves that change the machine. -/
inductive HostOp where
  | reset
  | load (pairs : List (Word × Byte))
  | run (budget : Nat)
  deriving DecidableEq, Repr

/-- One move of the host, under a value of both parameters (R6). -/
def hostOpWith (p : Parameters) (o : HostOp) (s : State) : Outcome :=
  match o with
  | .reset => .next s.hostReset
  | .load pairs => .next (s.hostLoad pairs)
  | .run budget => runWith p budget s

/-- R53, R149, R183: moves one after another. A session of the hardware begins at `State.reset` (R181; DESIGN CHOICE, log 8). -/
def sessionWith (p : Parameters) : List HostOp → State → Outcome
  | [], s => .next s
  | o :: rest, s => onNext (hostOpWith p o s) (sessionWith p rest)

/-- A session under the chosen parameters. -/
def session (ops : List HostOp) (s : State) : Outcome := sessionWith chosenParameters ops s

end Sys2Proof.Machine
end

