-- ==== Sys2Proof/Safety.lean ====
section
/-! DEFINITION. What counts as a safe state and a clean run, in the terms the statements use. -/

namespace Sys2Proof.Machine

/-- What every state of a host session keeps: the memory's canonical form; SP where reset put it (spec/10_state.md R26);
InterruptDisable, BreakCommand and Overflow 0 (R30, R32, R33); Zero and Negative never both 1 (spec/41_loads.md R100). -/
def State.Inv (s : State) : Prop :=
  s.mem.wf = true ∧ s.sp = 0x0100#16 ∧ s.flagI = false ∧ s.flagB = false ∧ s.flagV = false ∧
    ¬(s.flagZ = true ∧ s.flagN = true)

/-- R169: "nothing went wrong" is "the run emitted no diagnostic". -/
def Clean (before after : State) : Prop := after.reports = before.reports

/-- R49, R120: the stack page and the vector area. -/
def Reserved (t : Word) : Prop :=
  (0x0100 ≤ t.toNat ∧ t.toNat ≤ 0x01FF) ∨ (0xFFFA ≤ t.toNat ∧ t.toNat ≤ 0xFFFF)

/-- The opcode column of spec/30_encoding.md R66, written out apart from the table (PRESUMED: D1; log 1). -/
def knownOpcodes : List Byte :=
  [0x29#8, 0x38#8, 0x4C#8, 0x6C#8, 0xA0#8, 0xA2#8, 0xA4#8, 0xA5#8, 0xA6#8, 0xA9#8, 0xAC#8, 0xAD#8, 0xAE#8, 0xB4#8, 0xB5#8, 0xB6#8,
    0xB9#8, 0xBC#8, 0xBD#8, 0xBE#8, 0xF8#8]

/-- The general register a mnemonic writes (R21 to R23). -/
def destOf : Mnemonic → Option Reg
  | .lda | .and => some .acc
  | .ldx => some .regX
  | .ldy => some .regY
  | .jmp | .sec | .sed => none

/-- R47: the data bytes an instruction reads beside its own bytes: none, one (a load through an address) or two (a pointer). -/
def dataReads (i : Instr) (s : State) : List Word :=
  match i with
  | .andImm _ | .sec | .sed | .jmpAbs _ | .ldaImm _ | .ldxImm _ | .ldyImm _ => []
  | .jmpInd nnnn => [nnnn, nnnn + 1#16]
  | .ldaZp nn | .ldxZp nn | .ldyZp nn => [zeroPageAddr nn]
  | .ldaZpX nn | .ldyZpX nn => [zeroPageXAddr nn s]
  | .ldxZpY nn => [zeroPageYAddr nn s]
  | .ldaAbs nnnn | .ldxAbs nnnn | .ldyAbs nnnn => [absoluteAddr nnnn]
  | .ldaAbsX nnnn | .ldyAbsX nnnn => [absoluteXAddr nnnn s]
  | .ldaAbsY nnnn | .ldxAbsY nnnn => [absoluteYAddr nnnn s]

/-- R47, R94: every address a step reads: the opcode byte, the operand bytes, then the data bytes. -/
def State.readSet (s : State) : List Word :=
  match s.instrAt with
  | none => [s.pc]
  | some i => (List.range (encode i).length).map (fun k => s.pc + BitVec.ofNat 16 k) ++ dataReads i s

end Sys2Proof.Machine
end

