-- ==== Sys2Proof/Certificates/Slice0/Obligations.lean ====
section
/-! DEFINITION. The statements for the provers, in the order of OBLIGATIONS.json. Each docstring names the rule of spec/ it
formalises, or the sections it is derived from. A derived statement that uses an opcode byte rests on the spec's own choice of
`DECODE_TABLE` (decisions D1, D2; log 1, 2) for every byte but 0xA9 and 0xA2; what is said of `reports` rests on log 4. -/

open Sys2Proof Sys2Proof.Machine

/-! ### Decoding and stepping -/

/-- 45_step_and_run.md section 1: a step at bytes that decode runs the instruction they decode to and does nothing else; a byte with no
row is consumed and reported. -/
def Obligations.StepRunsDecodedInstruction : Prop :=
  (∀ (s : State) (i : Instr) (rest : List Byte), decode (s.bytesAt s.pc 3) = .instr i rest → step s = exec i s) ∧
  (∀ s : State, decode (s.bytesAt s.pc 3) = .rejected (.unrecognizedOpcode (s.memRead s.pc)) →
    step s = .next (s.consumeUnrecognized (s.memRead s.pc))) ∧
  (∀ s : State, s.instrAt = none → decode (s.bytesAt s.pc 3) = .rejected (.unrecognizedOpcode (s.memRead s.pc)))

/-- 30_encoding.md sections 1 to 3: no bit of an encoding is dropped, for every instruction and every operand. -/
def Obligations.DecodeOfEncodeIsIdentity : Prop :=
  ∀ (i : Instr) (rest : List Byte), i.wellFormed = true ∧ decode (encode i ++ rest) = .instr i rest

/-- 30_encoding.md sections 1 to 3: every word has one meaning; bytes that decode are the encoding of what they decode to. -/
def Obligations.DecodedBytesAreTheEncoding : Prop :=
  ∀ (bytes : List Byte) (i : Instr) (rest : List Byte), decode bytes = .instr i rest → bytes = encode i ++ rest

/-- 30_encoding.md section 3: words written out from the table decode to their instructions, one of each family; 0x00, 0xEA, 0xA1 and
0xFF decode to none. -/
def Obligations.TableWordsDecode : Prop :=
  decode [0b10101001#8, 0x80#8] = .instr (.ldaImm 0x80#8) [] ∧
  decode [0b10100010#8, 0x00#8] = .instr (.ldxImm 0x00#8) [] ∧
  decode [0b10110100#8, 0x10#8] = .instr (.ldyZpX 0x10#8) [] ∧
  decode [0b10111001#8, 0x00#8, 0x04#8] = .instr (.ldaAbsY 0x0400#16) [] ∧
  decode [0b01001100#8, 0x50#8, 0x01#8] = .instr (.jmpAbs 0x0150#16) [] ∧
  decode [0b01101100#8, 0xFF#8, 0x02#8] = .instr (.jmpInd 0x02FF#16) [] ∧
  decode [0b00111000#8] = .instr .sec [] ∧
  decode [0b11111000#8] = .instr .sed [] ∧
  decode [0b00101001#8, 0x0F#8] = .instr (.andImm 0x0F#8) [] ∧
  decode [0x00#8] = .rejected (.unrecognizedOpcode 0x00#8) ∧
  decode [0xEA#8] = .rejected (.unrecognizedOpcode 0xEA#8) ∧
  decode [0xA1#8, 0x10#8] = .rejected (.unrecognizedOpcode 0xA1#8) ∧
  decode [0xFF#8] = .rejected (.unrecognizedOpcode 0xFF#8)

/-- 30_encoding.md sections 3 and 4: each of the 235 bytes outside the table is no instruction; as an opcode it moves PC by one, is
reported, and changes nothing else. Which 21 bytes have a row is the spec's own choice D1 (log 1), the report's form D6 (log 4). -/
def Obligations.UnrecognizedOpcodeConsumesOneByte : Prop :=
  (∀ (op : Byte) (rest : List Byte), op ∉ knownOpcodes → decode (op :: rest) = .rejected (.unrecognizedOpcode op)) ∧
  (∀ s : State, s.memRead s.pc ∉ knownOpcodes →
    step s = .next { s with
      pc := s.pc + 1#16, reports := s.reports ++ [.unrecognizedOpcode (s.memRead s.pc) s.pc] }) ∧
  (∀ op ∈ knownOpcodes, ∃ row, lookupRow decodeTable op = some row) ∧
  ((List.range 256).filter (fun k => BitVec.ofNat 8 k ∉ knownOpcodes)).length = 235

/-- 30_encoding.md section 4: a byte with no row has length 1; otherwise the length is 1 plus the operand count of the row's mode; a rejected JMP still has
length 3, and PC ends past those bytes (42_jumps.md section 2; the spec's own choice D7, C2; log 5). -/
def Obligations.LengthComesFromTheMode : Prop :=
  (∀ op : Byte, lookupRow decodeTable op = none → lengthFor decodeTable op = 1) ∧
  (∀ (op : Byte) (row : TableRow), lookupRow decodeTable op = some row →
    lengthFor decodeTable op = 1 + row.mode.operandBytes) ∧
  (∀ (op : Byte) (rest left : List Byte) (i : Instr), decode (op :: rest) = .instr i left →
    (op :: rest).length = lengthFor decodeTable op + left.length ∧ (encode i).length = lengthFor decodeTable op) ∧
  Mode.operandBytes .implied = 0 ∧
  (∀ m ∈ [Mode.immediate, .zeroPage, .zeroPageX, .zeroPageY, .relative], m.operandBytes = 1) ∧
  (∀ m ∈ [Mode.absolute, .absoluteX, .absoluteY, .indirect], m.operandBytes = 2) ∧
  (∀ (s : State) (nnnn : Word), Reserved nnnn →
    (encode (.jmpAbs nnnn)).length = 3 ∧ ∃ t, exec (.jmpAbs nnnn) s = .next t ∧ t.pc = s.pc + 3#16) ∧
  (∀ (s : State) (nnnn : Word), Reserved (s.memRead16 nnnn) →
    (encode (.jmpInd nnnn)).length = 3 ∧ ∃ t, exec (.jmpInd nnnn) s = .next t ∧ t.pc = s.pc + 3#16)

/-- 30_encoding.md section 3, 41_loads.md section 5: a listing is well-formed exactly if it is an instruction, and then it is that
instruction's own mnemonic, mode and operand bytes. -/
def Obligations.WellFormedListingsAreInstructions : Prop :=
  (∀ l : Listing, l.wellFormed = true ↔ ∃ i, l.toInstr = some i) ∧
  (∀ (l : Listing) (i : Instr), l.toInstr = some i ↔ l = ⟨i.mnemonic, i.mode, i.operands⟩)

/-- R67: what the source itself fixes of the table, of the chosen table; and what a step then does under ANY table with the three
facts (a), (b), (c), whatever else the table holds. (e): `decodeTable` is a constant, the argument of no state. -/
def Obligations.SourceFixedRowsDecideTheStep : Prop :=
  lookupRow decodeTable 0xA9#8 = some ⟨0xA9#8, .lda, .immediate⟩ ∧
  lookupRow decodeTable 0xA2#8 = some ⟨0xA2#8, .ldx, .immediate⟩ ∧
  lookupRow decodeTable 0xFF#8 = none ∧
  (∀ p ∈ [(Mnemonic.ldy, Mode.immediate), (.jmp, .absolute), (.jmp, .indirect), (.sec, .implied), (.sed, .implied),
      (.and, .immediate)], ∃ op, lookupRow decodeTable op = some ⟨op, p.1, p.2⟩) ∧
  (∀ (table : List TableRow) (s : State),
    lookupRow table 0xA9#8 = some ⟨0xA9#8, .lda, .immediate⟩ →
    lookupRow table 0xA2#8 = some ⟨0xA2#8, .ldx, .immediate⟩ →
    lookupRow table 0xFF#8 = none →
      (s.memRead s.pc = 0xA9#8 → stepWith table s = exec (.ldaImm (s.memRead (s.pc + 1#16))) s) ∧
      (s.memRead s.pc = 0xA2#8 → stepWith table s = exec (.ldxImm (s.memRead (s.pc + 1#16))) s) ∧
      (s.memRead s.pc = 0xFF#8 → ∃ t d, stepWith table s = .next t ∧
        t = { s with pc := s.pc + 1#16, reports := s.reports ++ [d] }))

/-- 20_memory.md section 7, 00_scope.md section 4: an instruction's bytes placed at PC are what the next step fetches and runs, and
placing them changes memory only. -/
def Obligations.PlacedInstructionIsFetched : Prop :=
  ∀ (s : State) (nbits w : Nat) (i : Instr), decodeTableWord nbits w = some i →
    let t := s.withFetchWord nbits w
    t.instrAt = some i ∧ step t = exec i t ∧ t = { s with mem := t.mem }

/-! ### Memory -/

/-- R42: a read returns the value of the latest write to that address since init, or 0x00 if there was none, whatever writes to
whatever addresses were made. -/
def Obligations.ReadGivesLatestWrite : Prop :=
  ∀ (writes : List (Nat × Byte)) (a : Nat),
    (writes.foldl (fun m w => m.write w.1 w.2) Memory.init).read a =
      (((writes.filter (fun w => w.1 % 65536 == a % 65536)).getLast?).map Prod.snd).getD 0x00#8

/-- R41, R44: a write sets the byte at the address modulo 65536, leaves every other byte and all other state as it was, and no
instruction writes. -/
def Obligations.WriteChangesOneByte : Prop :=
  (∀ (s : State) (addr a2 : Nat) (v : Byte),
    (s.hostWrite addr v).hostRead a2 = if a2 % 65536 = addr % 65536 then v else s.hostRead a2) ∧
  (∀ (s : State) (addr : Nat) (v : Byte), { s.hostWrite addr v with mem := s.mem } = s) ∧
  (∀ (s : State) (addr : Nat) (v w : Byte), ((s.hostWrite addr v).hostWrite addr w).hostRead addr = w) ∧
  (∀ (i : Instr) (s t : State), exec i s = .next t → ∀ a : Nat, t.hostRead a = s.hostRead a)

/-- 20_memory.md section 1 (the model's canonical form, log 12): memories in canonical form that read alike are equal data. -/
def Obligations.CanonicalMemoriesThatReadAlikeAreEqual : Prop :=
  ∀ m n : Memory, m.wf = true → n.wf = true → (∀ a : Nat, a < 65536 → m.read a = n.read a) → m = n

/-- 20_memory.md sections 4 and 7, 40_addressing_modes.md section 3: a step reads between one and five bytes, and two states that
differ in memory alone and agree on those bytes step alike. -/
def Obligations.StepDependsOnlyOnBytesItReads : Prop :=
  (∀ s : State, 1 ≤ s.readSet.length ∧ s.readSet.length ≤ 5) ∧
  (∀ (s t : State) (m : Memory), (∀ a ∈ s.readSet, ({ s with mem := m }).memRead a = s.memRead a) →
    step s = .next t → step { s with mem := m } = .next { t with mem := m })

/-! ### Reset and the invariant -/

/-- R39, R180: reset puts every piece of state at its reset value, from any state, and puts no diagnostic out. -/
def Obligations.ResetSetsEveryPieceOfState : Prop :=
  (∀ s : State, s.hostReset.inspect = ⟨0xFFFC#16, 0x0100#16, 0x00#8, 0x00#8, 0x00#8, false, false, false, false, false, false, false⟩) ∧
  (∀ (s : State) (a : Nat), s.hostReset.hostRead a = 0x00#8) ∧
  (∀ s : State, s.hostReset.reports = s.reports) ∧
  State.reset.inspect = ⟨0xFFFC#16, 0x0100#16, 0x00#8, 0x00#8, 0x00#8, false, false, false, false, false, false, false⟩ ∧
  (∀ a : Nat, State.reset.hostRead a = 0x00#8)

/-- The invariant of Safety.lean holds right after reset (10_state.md section 9). -/
def Obligations.ResetMeetsTheInvariant : Prop := State.reset.Inv

/-- 10_state.md sections 3 and 4, 41_loads.md section 1, 20_memory.md section 1: every step from a state that meets the invariant
leads to one that meets it. -/
def Obligations.StepKeepsTheInvariant : Prop :=
  ∀ s t : State, s.Inv → step s = .next t → t.Inv

/-- 45_step_and_run.md section 3: whatever the host does, in any order, every move completes and keeps the invariant. -/
def Obligations.HostSessionKeepsTheInvariant : Prop :=
  ∀ (ops : List HostOp) (s : State), s.Inv → ∃ t, session ops s = .next t ∧ t.Inv

/-! ### Flags and registers -/

/-- R30, R32, R33: InterruptDisable, BreakCommand and Overflow are written by no step, read by none, and hold 0 from reset onward. -/
def Obligations.UnusedFlagsHoldZero : Prop :=
  (∀ s t : State, step s = .next t → t.flagI = s.flagI ∧ t.flagB = s.flagB ∧ t.flagV = s.flagV) ∧
  (∀ (s t : State) (i b v : Bool), step s = .next t →
    step { s with flagI := i, flagB := b, flagV := v } = .next { t with flagI := i, flagB := b, flagV := v }) ∧
  (∀ ops : List HostOp, ∃ t, session ops State.reset = .next t ∧ t.flagI = false ∧ t.flagB = false ∧ t.flagV = false)

/-- 10_state.md section 3: SP is written and read by no step, and holds 0x0100 from reset onward. -/
def Obligations.StackPointerNeverMoves : Prop :=
  (∀ (s t : State) (x : Word), step s = .next t → t.sp = s.sp ∧ step { s with sp := x } = .next { t with sp := x }) ∧
  (∀ ops : List HostOp, ∃ t, session ops State.reset = .next t ∧ t.sp = 0x0100#16)

/-- R28, R31: Carry is set to 1 by SEC and DecimalMode by SED, by nothing else; once 1 they stay 1 until reset; no step reads them. -/
def Obligations.CarryAndDecimalOnlySet : Prop :=
  (∀ s t : State, step s = .next t →
    t.flagC = (s.flagC || decide (s.instrAt = some .sec)) ∧ t.flagD = (s.flagD || decide (s.instrAt = some .sed))) ∧
  (∀ (s t : State) (c d : Bool), step s = .next t →
    step { s with flagC := c, flagD := d } = .next { t with
      flagC := c || decide (s.instrAt = some .sec), flagD := d || decide (s.instrAt = some .sed) }) ∧
  (∀ (ops : List HostOp) (s t : State), HostOp.reset ∉ ops → session ops s = .next t →
    (s.flagC = true → t.flagC = true) ∧ (s.flagD = true → t.flagD = true)) ∧
  State.reset.flagC = false ∧ State.reset.flagD = false

/-- R29, R34: Zero and Negative are written by every load and by AND, from the byte loaded or computed, and by nothing else; no step
reads them. -/
def Obligations.ZeroAndNegativeFollowTheResult : Prop :=
  (∀ (i : Instr) (r : Reg) (s t : State), destOf i.mnemonic = some r → exec i s = .next t →
    t.flagZ = decide (t.readReg r = 0x00#8) ∧ t.flagN = decide (0x80 ≤ (t.readReg r).toNat)) ∧
  (∀ (i : Instr) (s t : State), destOf i.mnemonic = none → exec i s = .next t → t.flagZ = s.flagZ ∧ t.flagN = s.flagN) ∧
  (∀ s t : State, s.instrAt = none → step s = .next t → t.flagZ = s.flagZ ∧ t.flagN = s.flagN) ∧
  (∀ (s t : State) (z n : Bool), step s = .next t → ∃ t', step { s with flagZ := z, flagN := n } = .next t' ∧
    { t' with flagZ := t.flagZ, flagN := t.flagN } = t) ∧
  State.reset.flagZ = false ∧ State.reset.flagN = false

/-- R35: no instruction touches a flag it does not declare; a mode writes PC alone; a JMP writes no flag; an unrecognized opcode writes
PC alone; and the flags influence nothing a step does to the rest of the machine. -/
def Obligations.FlagIsolation : Prop :=
  (∀ (i : Instr) (s t : State), exec i s = .next t →
    (i.mnemonic ≠ .sec → t.flagC = s.flagC) ∧ (i.mnemonic ≠ .sed → t.flagD = s.flagD) ∧
    (destOf i.mnemonic = none → t.flagZ = s.flagZ ∧ t.flagN = s.flagN) ∧
    t.flagI = s.flagI ∧ t.flagB = s.flagB ∧ t.flagV = s.flagV) ∧
  (∀ (m : Mode) (s : State), (resolve m s).2 = { s with pc := s.pc + BitVec.ofNat 16 m.operandBytes }) ∧
  (∀ (i : Instr) (s t : State), i.mnemonic = .jmp → exec i s = .next t → { t with pc := s.pc, reports := s.reports } = s) ∧
  (∀ s t : State, s.instrAt = none → step s = .next t → { t with pc := s.pc, reports := s.reports } = s) ∧
  (∀ (s t : State) (c z i d b v n : Bool), step s = .next t → ∃ t', step (s.withFlags c z i d b v n) = .next t' ∧
    t'.withFlags false false false false false false false = t.withFlags false false false false false false false)

/-- R100: `SetZN` writes both flags, to 0 as well as to 1, and nothing else; Zero and Negative never result both 1; every load and AND
leaves the flags it gives. -/
def Obligations.SetZNWritesBothFlags : Prop :=
  (∀ (s : State) (v : Byte),
    s.setZN v = { s with flagZ := decide (v.toNat = 0), flagN := decide (0x80 ≤ v.toNat) } ∧
    ¬((s.setZN v).flagZ = true ∧ (s.setZN v).flagN = true)) ∧
  (∀ (i : Instr) (r : Reg) (s t : State), destOf i.mnemonic = some r → exec i s = .next t → t = t.setZN (t.readReg r))

/-- R117: after any load-class instruction Zero is 1 iff the loaded register is 0 and Negative is its bit 7, and the register holds,
untransformed, the byte memory holds at the effective address of the instruction's mode. -/
def Obligations.LoadClassProperty : Prop :=
  ∀ (s : State) (i : Instr) (r : Reg), s.instrAt = some i → i.mnemonic ≠ .and → destOf i.mnemonic = some r →
    ∃ ea t, (resolve i.mode (s.advance 1)).1 = some ea ∧ step s = .next t ∧ t.readReg r = s.memRead ea ∧
      (t.flagZ = true ↔ t.readReg r = 0x00#8) ∧ t.flagN = (t.readReg r).getLsbD 7

/-! ### Fetch and the addressing modes -/

/-- R80: `Fetch()` reads the byte at PC, advances PC by 1 with wrap, and changes nothing else; every mode, Immediate too, consumes its
operand bytes with the net effect of that many fetches. -/
def Obligations.FetchReadsAndAdvances : Prop :=
  (∀ s : State, fetch s = (s.memRead s.pc, { s with pc := s.pc + 1#16 })) ∧
  (∀ s : State, s.pc = 0xFFFF#16 → (fetch s).1 = s.hostRead 0xFFFF ∧ (fetch s).2.pc = 0x0000#16) ∧
  (∀ (m : Mode) (s : State), (resolve m s).2 = (fun t => (fetch t).2)^[m.operandBytes] s)

/-- 40_addressing_modes.md section 2, Immediate to Absolute,Y: the address each mode returns, PC past the operand, and which opcodes use
the mode (the opcode bytes and pairs: D1, D2, log 1, 2). -/
def Obligations.ModesResolveAsRuled : Prop :=
  (∀ s : State,
    let b := (s.memRead s.pc).toNat
    let h := (s.memRead (s.pc + 1#16)).toNat
    let x := s.regX.toNat
    let y := s.regY.toNat
    resolve .immediate s = (some s.pc, { s with pc := s.pc + 1#16 }) ∧
    resolve .zeroPage s = (some (BitVec.ofNat 16 b), { s with pc := s.pc + 1#16 }) ∧
    resolve .zeroPageX s = (some (BitVec.ofNat 16 ((b + x) % 256)), { s with pc := s.pc + 1#16 }) ∧
    resolve .zeroPageY s = (some (BitVec.ofNat 16 ((b + y) % 256)), { s with pc := s.pc + 1#16 }) ∧
    resolve .absolute s = (some (BitVec.ofNat 16 (h * 256 + b)), { s with pc := s.pc + 2#16 }) ∧
    resolve .absoluteX s = (some (BitVec.ofNat 16 ((h * 256 + b + x) % 65536)), { s with pc := s.pc + 2#16 }) ∧
    resolve .absoluteY s = (some (BitVec.ofNat 16 ((h * 256 + b + y) % 65536)), { s with pc := s.pc + 2#16 })) ∧
  opcodesUsing decodeTable .immediate = [0x29#8, 0xA0#8, 0xA2#8, 0xA9#8] ∧
  opcodesUsing decodeTable .zeroPage = [0xA4#8, 0xA5#8, 0xA6#8] ∧
  opcodesUsing decodeTable .zeroPageX = [0xB4#8, 0xB5#8] ∧
  opcodesUsing decodeTable .zeroPageY = [0xB6#8] ∧
  opcodesUsing decodeTable .absolute = [0x4C#8, 0xAC#8, 0xAD#8, 0xAE#8] ∧
  opcodesUsing decodeTable .absoluteX = [0xBC#8, 0xBD#8] ∧
  opcodesUsing decodeTable .absoluteY = [0xB9#8, 0xBE#8]

/-- 40_addressing_modes.md section 2: Implied consumes and returns nothing; Indirect takes the pointer's high byte from the following
address as a 16-bit number (the spec's own choice D8, log 6); Relative counts from the PC after the offset (D9, log 7). -/
def Obligations.ImpliedIndirectRelativeResolve : Prop :=
  (∀ s : State, resolve .implied s = (none, s)) ∧
  (∀ (s : State) (p : Word), p.toNat = (s.memRead (s.pc + 1#16)).toNat * 256 + (s.memRead s.pc).toNat →
    resolve .indirect s =
      (some (BitVec.ofNat 16 ((s.memRead (p + 1#16)).toNat * 256 + (s.memRead p).toNat)), { s with pc := s.pc + 2#16 })) ∧
  (∀ (s : State) (o : Int), -128 ≤ o → o ≤ 127 → s.memRead s.pc = BitVec.ofInt 8 o →
    resolve .relative s = (some (s.pc + 1#16 + BitVec.ofInt 16 o), { s with pc := s.pc + 1#16 })) ∧
  opcodesUsing decodeTable .implied = [0x38#8, 0xF8#8] ∧
  opcodesUsing decodeTable .indirect = [0x6C#8] ∧
  opcodesUsing decodeTable .relative = []

/-- R92: a mode writes PC alone, cannot fail, and its result depends only on the instruction bytes, on RegX or RegY where its rule says
so, on PC, and (Indirect only) on two memory bytes. -/
def Obligations.ModesReadOnlyWhatTheyName : Prop :=
  (∀ (m : Mode) (s : State), (resolve m s).2 = { s with pc := (resolve m s).2.pc }) ∧
  (∀ (m : Mode) (s : State), m ≠ .implied → ∃ ea, (resolve m s).1 = some ea) ∧
  (∀ (m : Mode) (s t : State), s.pc = t.pc → s.bytesAt s.pc m.operandBytes = t.bytesAt t.pc m.operandBytes →
    (m = .zeroPageX ∨ m = .absoluteX → s.regX = t.regX) → (m = .zeroPageY ∨ m = .absoluteY → s.regY = t.regY) →
    (m = .indirect → s.memRead16 (s.memRead16 s.pc) = t.memRead16 (t.memRead16 t.pc)) →
    (resolve m s).1 = (resolve m t).1)

/-! ### The instructions -/

/-- R101, R107: `LDA #$nn` and `LDX #$nn`, as instructions, as steps at their bytes, and right after reset with the bytes loaded at
0xFFFC. -/
def Obligations.LdaLdxImmediate : Prop :=
  (∀ (nn : Byte) (s : State), exec (.ldaImm nn) s = .next { s with
    acc := nn, flagZ := decide (nn = 0x00#8), flagN := nn.getLsbD 7, pc := s.pc + 2#16 }) ∧
  (∀ (nn : Byte) (s : State), exec (.ldxImm nn) s = .next { s with
    regX := nn, flagZ := decide (nn = 0x00#8), flagN := nn.getLsbD 7, pc := s.pc + 2#16 }) ∧
  (∀ (nn : Byte) (s : State), s.memRead s.pc = 0xA9#8 → s.memRead (s.pc + 1#16) = nn → step s = .next { s with
    acc := nn, flagZ := decide (nn = 0x00#8), flagN := nn.getLsbD 7, pc := s.pc + 2#16 }) ∧
  (∀ (nn : Byte) (s : State), s.memRead s.pc = 0xA2#8 → s.memRead (s.pc + 1#16) = nn → step s = .next { s with
    regX := nn, flagZ := decide (nn = 0x00#8), flagN := nn.getLsbD 7, pc := s.pc + 2#16 }) ∧
  (∀ b : Byte, ∃ t, step (State.reset.hostLoad [(0xFFFC#16, 0xA9#8), (0xFFFD#16, b)]) = .next t ∧
    t.inspect = ⟨0xFFFE#16, 0x0100#16, b, 0x00#8, 0x00#8, false, decide (b = 0x00#8), false, false, false, false,
      decide (b &&& 0x80#8 ≠ 0x00#8)⟩) ∧
  (∀ b : Byte, ∃ t, step (State.reset.hostLoad [(0xFFFC#16, 0xA2#8), (0xFFFD#16, b)]) = .next t ∧
    t.inspect = ⟨0xFFFE#16, 0x0100#16, 0x00#8, b, 0x00#8, false, decide (b = 0x00#8), false, false, false, false,
      decide (b &&& 0x80#8 ≠ 0x00#8)⟩)

/-- 41_loads.md section 4: `LDY #$nn`; its opcode byte 0xA0 is the spec's own choice (D1, log 1). -/
def Obligations.LdyImmediate : Prop :=
  (∀ (nn : Byte) (s : State), exec (.ldyImm nn) s = .next { s with
    regY := nn, flagZ := decide (nn = 0x00#8), flagN := nn.getLsbD 7, pc := s.pc + 2#16 }) ∧
  (∀ s : State, s.memRead s.pc = 0xA0#8 → step s = exec (.ldyImm (s.memRead (s.pc + 1#16))) s)

/-- 41_loads.md sections 2 to 4: the Zero Page loads read the byte at the zero-extended operand (pairs and bytes: D1, D2, log 1, 2). -/
def Obligations.ZeroPageLoads : Prop :=
  (∀ (nn v : Byte) (s : State), s.hostRead nn.toNat = v →
    exec (.ldaZp nn) s = .next { s with acc := v, flagZ := decide (v = 0x00#8), flagN := v.getLsbD 7, pc := s.pc + 2#16 } ∧
    exec (.ldxZp nn) s = .next { s with regX := v, flagZ := decide (v = 0x00#8), flagN := v.getLsbD 7, pc := s.pc + 2#16 } ∧
    exec (.ldyZp nn) s = .next { s with regY := v, flagZ := decide (v = 0x00#8), flagN := v.getLsbD 7, pc := s.pc + 2#16 }) ∧
  (∀ s : State, s.memRead s.pc = 0xA5#8 → step s = exec (.ldaZp (s.memRead (s.pc + 1#16))) s) ∧
  (∀ s : State, s.memRead s.pc = 0xA6#8 → step s = exec (.ldxZp (s.memRead (s.pc + 1#16))) s) ∧
  (∀ s : State, s.memRead s.pc = 0xA4#8 → step s = exec (.ldyZp (s.memRead (s.pc + 1#16))) s)

/-- 41_loads.md sections 2 to 4: the Zero Page indexed loads read inside page 0, the sum taken modulo 256 (D1, D2, log 1, 2). -/
def Obligations.ZeroPageIndexedLoads : Prop :=
  (∀ (nn v : Byte) (s : State), s.hostRead ((nn.toNat + s.regX.toNat) % 256) = v →
    exec (.ldaZpX nn) s = .next { s with acc := v, flagZ := decide (v = 0x00#8), flagN := v.getLsbD 7, pc := s.pc + 2#16 } ∧
    exec (.ldyZpX nn) s = .next { s with regY := v, flagZ := decide (v = 0x00#8), flagN := v.getLsbD 7, pc := s.pc + 2#16 }) ∧
  (∀ (nn v : Byte) (s : State), s.hostRead ((nn.toNat + s.regY.toNat) % 256) = v →
    exec (.ldxZpY nn) s = .next { s with regX := v, flagZ := decide (v = 0x00#8), flagN := v.getLsbD 7, pc := s.pc + 2#16 }) ∧
  (∀ s : State, s.memRead s.pc = 0xB5#8 → step s = exec (.ldaZpX (s.memRead (s.pc + 1#16))) s) ∧
  (∀ s : State, s.memRead s.pc = 0xB4#8 → step s = exec (.ldyZpX (s.memRead (s.pc + 1#16))) s) ∧
  (∀ s : State, s.memRead s.pc = 0xB6#8 → step s = exec (.ldxZpY (s.memRead (s.pc + 1#16))) s)

/-- 41_loads.md sections 2 to 4: the Absolute loads read the byte at the 16-bit operand, low byte first (D1, D2, log 1, 2). -/
def Obligations.AbsoluteLoads : Prop :=
  (∀ (nnnn : Word) (v : Byte) (s : State), s.hostRead nnnn.toNat = v →
    exec (.ldaAbs nnnn) s = .next { s with acc := v, flagZ := decide (v = 0x00#8), flagN := v.getLsbD 7, pc := s.pc + 3#16 } ∧
    exec (.ldxAbs nnnn) s = .next { s with regX := v, flagZ := decide (v = 0x00#8), flagN := v.getLsbD 7, pc := s.pc + 3#16 } ∧
    exec (.ldyAbs nnnn) s = .next { s with regY := v, flagZ := decide (v = 0x00#8), flagN := v.getLsbD 7, pc := s.pc + 3#16 }) ∧
  (∀ (s : State) (nnnn : Word), nnnn.toNat = (s.memRead (s.pc + 2#16)).toNat * 256 + (s.memRead (s.pc + 1#16)).toNat →
    (s.memRead s.pc = 0xAD#8 → step s = exec (.ldaAbs nnnn) s) ∧
    (s.memRead s.pc = 0xAE#8 → step s = exec (.ldxAbs nnnn) s) ∧
    (s.memRead s.pc = 0xAC#8 → step s = exec (.ldyAbs nnnn) s))

/-- 41_loads.md sections 2 to 4: the Absolute indexed loads read at the 16-bit sum, which wraps modulo 65536 (D1, D2, log 1, 2). -/
def Obligations.AbsoluteIndexedLoads : Prop :=
  (∀ (nnnn : Word) (v : Byte) (s : State), s.hostRead ((nnnn.toNat + s.regX.toNat) % 65536) = v →
    exec (.ldaAbsX nnnn) s = .next { s with acc := v, flagZ := decide (v = 0x00#8), flagN := v.getLsbD 7, pc := s.pc + 3#16 } ∧
    exec (.ldyAbsX nnnn) s = .next { s with regY := v, flagZ := decide (v = 0x00#8), flagN := v.getLsbD 7, pc := s.pc + 3#16 }) ∧
  (∀ (nnnn : Word) (v : Byte) (s : State), s.hostRead ((nnnn.toNat + s.regY.toNat) % 65536) = v →
    exec (.ldaAbsY nnnn) s = .next { s with acc := v, flagZ := decide (v = 0x00#8), flagN := v.getLsbD 7, pc := s.pc + 3#16 } ∧
    exec (.ldxAbsY nnnn) s = .next { s with regX := v, flagZ := decide (v = 0x00#8), flagN := v.getLsbD 7, pc := s.pc + 3#16 }) ∧
  (∀ (s : State) (nnnn : Word), nnnn.toNat = (s.memRead (s.pc + 2#16)).toNat * 256 + (s.memRead (s.pc + 1#16)).toNat →
    (s.memRead s.pc = 0xBD#8 → step s = exec (.ldaAbsX nnnn) s) ∧
    (s.memRead s.pc = 0xB9#8 → step s = exec (.ldaAbsY nnnn) s) ∧
    (s.memRead s.pc = 0xBE#8 → step s = exec (.ldxAbsY nnnn) s) ∧
    (s.memRead s.pc = 0xBC#8 → step s = exec (.ldyAbsX nnnn) s))

/-- 44_logical.md: `AND #$nn`; flags from the result; bit `k` of the result is 1 iff it is 1 in both (byte 0x29: D1, log 1). -/
def Obligations.AndImmediate : Prop :=
  (∀ (nn : Byte) (s : State), ∃ r : Byte, (∀ k, r.getLsbD k = (s.acc.getLsbD k && nn.getLsbD k)) ∧
    exec (.andImm nn) s = .next { s with
      acc := r, flagZ := decide (r = 0x00#8), flagN := r.getLsbD 7, pc := s.pc + 2#16 }) ∧
  (∀ s : State, s.memRead s.pc = 0x29#8 → step s = exec (.andImm (s.memRead (s.pc + 1#16))) s)

/-- R120: `JumpTargetValid(t)` is true iff `t` is outside 0x0100 to 0x01FF and outside 0xFFFA to 0xFFFF, both ends inclusive; 65,274
addresses are valid and 262 are rejected. -/
def Obligations.JumpTargetCheck : Prop :=
  (∀ t : Word, jumpTargetValid t = true ↔
    ¬(0x0100 ≤ t.toNat ∧ t.toNat ≤ 0x01FF) ∧ ¬(0xFFFA ≤ t.toNat ∧ t.toNat ≤ 0xFFFF)) ∧
  (∀ t ∈ [0x0000#16, 0x00FF#16, 0x0200#16, 0xFFF9#16], jumpTargetValid t = true) ∧
  (∀ t ∈ [0x0100#16, 0x0150#16, 0x01FF#16, 0xFFFA#16, 0xFFFC#16, 0xFFFF#16], jumpTargetValid t = false) ∧
  (List.range 65536).countP (fun k => jumpTargetValid (BitVec.ofNat 16 k)) = 65274 ∧
  (List.range 65536).countP (fun k => !jumpTargetValid (BitVec.ofNat 16 k)) = 262

/-- 42_jumps.md section 2: `JMP $nnnn` sets PC to a valid target; a reserved one is reported and PC stays past the three bytes (the
spec's own choices D1 for the byte 0x4C and D7 for PC, log 1, 5). -/
def Obligations.JumpAbsolute : Prop :=
  (∀ (t : Word) (s : State), ¬Reserved t → exec (.jmpAbs t) s = .next { s with pc := t }) ∧
  (∀ (t : Word) (s : State), Reserved t →
    exec (.jmpAbs t) s = .next { s with pc := s.pc + 3#16, reports := s.reports ++ [.invalidJumpTarget t] }) ∧
  (∀ (s : State) (t : Word), t.toNat = (s.memRead (s.pc + 2#16)).toNat * 256 + (s.memRead (s.pc + 1#16)).toNat →
    s.memRead s.pc = 0x4C#8 → step s = exec (.jmpAbs t) s)

/-- 42_jumps.md section 2: `JMP ($nnnn)` jumps to the little-endian word at nnnn and nnnn + 1, subject to the same check on that word
(the spec's own choices D1, D7, D8; log 1, 5, 6). -/
def Obligations.JumpIndirect : Prop :=
  (∀ (p t : Word) (s : State), t.toNat = (s.hostRead (p.toNat + 1)).toNat * 256 + (s.hostRead p.toNat).toNat → ¬Reserved t →
    exec (.jmpInd p) s = .next { s with pc := t }) ∧
  (∀ (p t : Word) (s : State), t.toNat = (s.hostRead (p.toNat + 1)).toNat * 256 + (s.hostRead p.toNat).toNat → Reserved t →
    exec (.jmpInd p) s = .next { s with pc := s.pc + 3#16, reports := s.reports ++ [.invalidJumpTarget t] }) ∧
  (∀ (s : State) (p : Word), p.toNat = (s.memRead (s.pc + 2#16)).toNat * 256 + (s.memRead (s.pc + 1#16)).toNat →
    s.memRead s.pc = 0x6C#8 → step s = exec (.jmpInd p) s)

/-- 43_flag_set.md: `SEC` sets Carry and `SED` sets DecimalMode, nothing else but PC (bytes 0x38 and 0xF8: D1, log 1). -/
def Obligations.SecAndSed : Prop :=
  (∀ s : State, exec .sec s = .next { s with flagC := true, pc := s.pc + 1#16 }) ∧
  (∀ s : State, exec .sed s = .next { s with flagD := true, pc := s.pc + 1#16 }) ∧
  (∀ s : State, s.memRead s.pc = 0x38#8 → step s = exec .sec s) ∧
  (∀ s : State, s.memRead s.pc = 0xF8#8 → step s = exec .sed s)

/-! ### Frames -/

/-- 41_loads.md (common to all 16 rules), 44_logical.md: LDA, LDX, LDY and AND, in every form, change their destination
register, Zero, Negative and PC, and nothing else: not the other registers, SP, the other flags, a byte of memory, or the reports. -/
def Obligations.LoadsAndLogicalFrame : Prop :=
  ∀ (i : Instr) (r : Reg) (s t : State), destOf i.mnemonic = some r → exec i s = .next t →
    (∀ q : Reg, q ≠ r → t.readReg q = s.readReg q) ∧ t.sp = s.sp ∧
    t.flagC = s.flagC ∧ t.flagI = s.flagI ∧ t.flagD = s.flagD ∧ t.flagB = s.flagB ∧ t.flagV = s.flagV ∧
    (∀ a : Nat, t.hostRead a = s.hostRead a) ∧ t.reports = s.reports

/-- 42_jumps.md section 2, 43_flag_set.md: JMP changes PC and may add one diagnostic; SEC and SED change PC and their one flag; none of
them changes a register, SP, another flag or a byte of memory. -/
def Obligations.JumpsAndFlagSetsFrame : Prop :=
  ∀ (i : Instr) (s t : State), destOf i.mnemonic = none → exec i s = .next t →
    (∀ q : Reg, t.readReg q = s.readReg q) ∧ t.sp = s.sp ∧
    (i.mnemonic ≠ .sec → t.flagC = s.flagC) ∧ t.flagZ = s.flagZ ∧ t.flagI = s.flagI ∧
    (i.mnemonic ≠ .sed → t.flagD = s.flagD) ∧ t.flagB = s.flagB ∧ t.flagV = s.flagV ∧ t.flagN = s.flagN ∧
    (∀ a : Nat, t.hostRead a = s.hostRead a) ∧
    (i.mnemonic ≠ .jmp → t.reports = s.reports) ∧ (i.mnemonic = .jmp → ∃ d, t.reports = s.reports ++ d ∧ d.length ≤ 1)

/-! ### The whole machine -/

/-- 45_step_and_run.md section 1: every instruction and every step, from every state, answers a next state. -/
def Obligations.EveryStepCompletes : Prop :=
  (∀ (i : Instr) (s : State), ∃ t, exec i s = .next t) ∧ (∀ s : State, ∃ t, step s = .next t)

/-- 40_addressing_modes.md sections 1 and 2, 45_step_and_run.md section 1: the machine is the spec's pseudocode, fetch by fetch. -/
def Obligations.StepRefinesTheStreamReading : Prop :=
  ∀ s : State, ∃ t, streamStep s = some t ∧ step s = .next t

/-- 10_state.md section 2: where PC is after each step, for every opcode byte and both outcomes of a jump. -/
def Obligations.PcAfterEachStep : Prop :=
  ∀ s t : State, step s = .next t →
    (s.instrAt = none → t.pc = s.pc + 1#16) ∧
    (∀ i, s.instrAt = some i → i.mnemonic ≠ .jmp → t.pc = s.pc + BitVec.ofNat 16 (encode i).length) ∧
    (∀ p, s.instrAt = some (.jmpAbs p) → (¬Reserved p → t.pc = p) ∧ (Reserved p → t.pc = s.pc + 3#16)) ∧
    (∀ p, s.instrAt = some (.jmpInd p) →
      (¬Reserved (s.memRead16 p) → t.pc = s.memRead16 p) ∧ (Reserved (s.memRead16 p) → t.pc = s.pc + 3#16))

/-- 42_jumps.md section 3: a step ends with PC in the stack page or the vector area only by falling through to the next byte. -/
def Obligations.ReservedRegionsEnteredByFallThroughOnly : Prop :=
  ∀ s t : State, step s = .next t → Reserved t.pc →
    t.pc = s.pc + BitVec.ofNat 16 (lengthFor decodeTable (s.memRead s.pc))

/-- 60_exceptions.md section 1: a step puts out at most one diagnostic; InvalidJumpTarget exactly where a JMP's target is reserved,
UnrecognizedOpcode exactly where the byte has no row, and nothing else reports (form and payload: D6, log 4). -/
def Obligations.DiagnosticsAndNothingElse : Prop :=
  ∀ s t : State, step s = .next t →
    t.reports = s.reports ++
      (match s.instrAt with
       | none => [.unrecognizedOpcode (s.memRead s.pc) s.pc]
       | some (.jmpAbs p) => if jumpTargetValid p then [] else [.invalidJumpTarget p]
       | some (.jmpInd p) => if jumpTargetValid (s.memRead16 p) then [] else [.invalidJumpTarget (s.memRead16 p)]
       | some _ => [])

/-- 60_exceptions.md section 2: a program cannot observe that a diagnostic was reported: two states that differ only in what was
reported step to states that differ only in that, and report alike (log 4). -/
def Obligations.ReportsAreNotObservable : Prop :=
  ∀ (s t : State) (earlier : List Diagnostic), step s = .next t →
    t.reports = s.reports ++ reportsSince s t ∧
    step { s with reports := earlier } = .next { t with reports := earlier ++ reportsSince s t }

/-! ### Runs -/

/-- 45_step_and_run.md section 2, under the accounting the spec chose (D4, log 3): a run of budget `n` ends, after exactly `n` applications of the step, in the state they reach, whatever the program
does. -/
def Obligations.RunIsExactlyBudgetSteps : Prop :=
  ∃ f : State → State, (∀ s, step s = .next (f s)) ∧ ∀ (n : Nat) (s : State), run n s = .next (f^[n] s)

/-- 45_step_and_run.md section 2: two runs one after the other are one run of the sum of the budgets, in state and diagnostics, under
the accounting the spec chose (D4, log 3) and any decode table. -/
def Obligations.RunsCompose : Prop :=
  (∀ (m n : Nat) (s : State), onNext (run m s) (run n) = run (m + n) s) ∧
  (∀ (table : List TableRow) (m n : Nat) (s : State),
    onNext (runWith ⟨table, .perOpcodeFetch⟩ m s) (runWith ⟨table, .perOpcodeFetch⟩ n) =
      runWith ⟨table, .perOpcodeFetch⟩ (m + n) s)

/-- 45_step_and_run.md section 2 (the other value of the parameter, D4, D22; log 3): under any decode table the two accountings run the
same sequence of steps; a byte budget `b` buys some `k` steps, at most one a unit and at least one for three units. -/
def Obligations.AccountingsRunTheSameSteps : Prop :=
  ∀ (table : List TableRow) (b : Nat) (s : State), ∃ k, k ≤ b ∧ b ≤ 3 * k ∧
    runWith ⟨table, .perFetchedByte⟩ b s = runWith ⟨table, .perOpcodeFetch⟩ k s

/-- 70_reset_and_hazards.md section 2, 30_encoding.md section 4: running where nothing is loaded reports one UnrecognizedOpcode(0x00)
a step, at rising addresses that wrap, and changes nothing else. -/
def Obligations.RunOverUnloadedMemory : Prop :=
  ∀ (n : Nat) (s : State), s.mem = [] →
    run n s = .next { s with
      pc := s.pc + BitVec.ofNat 16 n,
      reports := s.reports ++ (List.range n).map (fun k => .unrecognizedOpcode 0x00#8 (s.pc + BitVec.ofNat 16 k)) }

/-! ### Any value of the two parameters (00_scope.md section 3; log 2, 3) -/

/-- 00_scope.md section 3, 45_step_and_run.md section 1: under any decode table the step is the spec's pseudocode fetch by fetch; it
stops exactly where the row needs an address that Implied does not return (log 2), and the machine is the chosen value of both. -/
def Obligations.StepUnderAnyTableRefinesTheStreamReading : Prop :=
  (∀ (table : List TableRow) (s t : State), streamStepWith table s = some t ↔ stepWith table s = .next t) ∧
  (∀ (table : List TableRow) (s : State), (∀ t, stepWith table s ≠ .next t) ↔
    ∃ row, lookupRow table (s.memRead s.pc) = some row ∧ row.mode = .implied ∧ row.mnemonic ≠ .sec ∧ row.mnemonic ≠ .sed) ∧
  (∀ row ∈ decodeTable, row.hasMeaning = true) ∧
  (∀ s : State, step s = stepWith chosenParameters.table s)

/-- 00_scope.md section 3, 30_encoding.md section 4: under any decode table a step runs what the decoder under that table reads at PC. -/
def Obligations.StepRunsWhatAnyTableDecodes : Prop :=
  ∀ (table : List TableRow) (s : State),
    (∀ (i : Instr) (rest : List Byte), decodeWith table (s.bytesAt s.pc 3) = .instr i rest → stepWith table s = exec i s) ∧
    (∀ (l : Listing) (rest : List Byte), decodeWith table (s.bytesAt s.pc 3) = .form l rest →
      ∃ t, execForm l.mnemonic l.mode (s.advance 1) = some t ∧ stepWith table s = .next t) ∧
    (∀ op : Byte, decodeWith table (s.bytesAt s.pc 3) = .rejected (.unrecognizedOpcode op) →
      op = s.memRead s.pc ∧ stepWith table s = .next (s.consumeUnrecognized op)) ∧
    (∀ op : Byte, decodeWith table (s.bytesAt s.pc 3) = .rejected (.noSuchForm op) →
      op = s.memRead s.pc ∧ stepWith table s = .refused (.noSuchForm op)) ∧
    (∀ op : Byte, decodeWith table (s.bytesAt s.pc 3) ≠ .rejected (.operandMissing op))

/-- 41_loads.md (the source's sentence at its head), 42_jumps.md section 2: under any decode table a load, in every mode that returns an
address, reads one byte from the resolved address into its register with Zero and Negative from it, and a JMP goes to the resolved
address if valid and else is reported (its PC then: D7, log 5). -/
def Obligations.LoadsAndJumpsWorkThroughTheResolvedAddress : Prop :=
  ∀ (table : List TableRow) (s : State) (row : TableRow) (ea : Word),
    lookupRow table (s.memRead s.pc) = some row → (resolve row.mode (s.advance 1)).1 = some ea →
    let past := s.pc + BitVec.ofNat 16 (lengthFor table (s.memRead s.pc))
    let v := s.memRead ea
    (row.mnemonic = .lda → stepWith table s =
      .next { s with acc := v, flagZ := decide (v = 0x00#8), flagN := v.getLsbD 7, pc := past }) ∧
    (row.mnemonic = .ldx → stepWith table s =
      .next { s with regX := v, flagZ := decide (v = 0x00#8), flagN := v.getLsbD 7, pc := past }) ∧
    (row.mnemonic = .ldy → stepWith table s =
      .next { s with regY := v, flagZ := decide (v = 0x00#8), flagN := v.getLsbD 7, pc := past }) ∧
    (row.mnemonic = .jmp → ¬Reserved ea → stepWith table s = .next { s with pc := ea }) ∧
    (row.mnemonic = .jmp → Reserved ea → stepWith table s =
      .next { s with pc := past, reports := s.reports ++ [.invalidJumpTarget ea] })

/-- 00_scope.md section 3, 45_step_and_run.md section 3: under any value of both parameters every step and every host session keeps the
invariant; and the session completes if every row of the table has a meaning. -/
def Obligations.HostSessionUnderAnyParametersKeepsTheInvariant : Prop :=
  (∀ (p : Parameters) (s t : State), s.Inv → stepWith p.table s = .next t → t.Inv) ∧
  (∀ (p : Parameters) (ops : List HostOp) (s t : State), s.Inv → sessionWith p ops s = .next t → t.Inv) ∧
  (∀ (p : Parameters) (ops : List HostOp) (s : State), (∀ row ∈ p.table, row.hasMeaning = true) →
    ∃ t, sessionWith p ops s = .next t)
end

