-- ==== Sys2Proof/Laws/Memory.lean ====
section
/-! SUPPORT. The laws of memory (spec/20_memory.md R41 to R44) and that every memory operation keeps the canonical form. -/

namespace Sys2Proof.Machine

@[simp] theorem Memory.cell_nil (a : Nat) : Memory.cell [] a = 0x00#8 := rfl

@[simp] theorem Memory.read_init (a : Nat) : Memory.init.read a = 0x00#8 := rfl

theorem Memory.read_mod (m : Memory) (a : Nat) : m.read (a % 65536) = m.read a := by
  simp [Memory.read, memorySize]

/-! ### erase and insert, cell by cell -/

theorem Memory.cell_erase_self (m : Memory) (a : Nat) : (m.erase a).cell a = 0x00#8 := by
  induction m with
  | nil => rfl
  | cons c rest ih =>
    by_cases h : c.1 = a
    · simpa [Memory.erase, h] using ih
    · simpa [Memory.erase, h, Memory.cell] using ih

theorem Memory.cell_erase_ne (m : Memory) {a b : Nat} (h : b ≠ a) : (m.erase a).cell b = m.cell b := by
  induction m with
  | nil => rfl
  | cons c rest ih =>
    by_cases hc : c.1 = a
    · have hb : c.1 ≠ b := by omega
      simpa [Memory.erase, hc, hb, Memory.cell, Ne.symm h] using ih
    · by_cases hb : c.1 = b
      · simp [Memory.erase, hb, Memory.cell, h]
      · simpa [Memory.erase, hc, hb, Memory.cell] using ih

theorem Memory.cell_insert_ne (c : Host.Cell) (m : Memory) {b : Nat} (h : b ≠ c.1) : (m.insert c).cell b = m.cell b := by
  induction m with
  | nil => simp [Memory.insert, Memory.cell, Ne.symm h, initByte]
  | cons d rest ih =>
    by_cases hd : c.1 < d.1
    · simp [Memory.insert, hd, Memory.cell, Ne.symm h]
    · simp [Memory.insert, hd, Memory.cell, ih]

theorem Memory.cell_insert_self (c : Host.Cell) (m : Memory) (h : ∀ d ∈ m, d.1 ≠ c.1) : (m.insert c).cell c.1 = c.2 := by
  induction m with
  | nil => simp [Memory.insert, Memory.cell]
  | cons d rest ih =>
    have hd := h d (by simp)
    by_cases hlt : c.1 < d.1
    · simp [Memory.insert, hlt, Memory.cell]
    · simpa [Memory.insert, hlt, Memory.cell, hd] using ih (fun e he => h e (by simp [he]))

theorem Memory.erase_ne {m : Memory} {a : Nat} : ∀ d ∈ m.erase a, d.1 ≠ a := by
  intro d hd
  simpa [Memory.erase] using (List.mem_filter.mp hd).2

/-! ### Read after write -/

/-- R41, R42: a read gives the byte just written at the same address modulo 65536, for any memory. -/
theorem Memory.read_write_same (m : Memory) {a b : Nat} (v : Byte) (h : b % 65536 = a % 65536) : (m.write a v).read b = v := by
  by_cases hv : v = 0x00#8
  · subst hv
    simpa [Memory.read, Memory.write, initByte, memorySize, h] using Memory.cell_erase_self m (a % 65536)
  · simpa [Memory.read, Memory.write, initByte, memorySize, h, hv] using
      Memory.cell_insert_self (a % 65536, v) (m.erase (a % 65536)) Memory.erase_ne

/-- R44: a write leaves every other byte as it was, for any memory. -/
theorem Memory.read_write_ne (m : Memory) {a b : Nat} (v : Byte) (h : b % 65536 ≠ a % 65536) : (m.write a v).read b = m.read b := by
  by_cases hv : v = 0x00#8
  · simpa [Memory.read, Memory.write, initByte, memorySize, hv] using Memory.cell_erase_ne m h
  · simp only [Memory.read, Memory.write, initByte, memorySize, hv, if_false]
    rw [Memory.cell_insert_ne (a % 65536, v) (m.erase (a % 65536)) h, Memory.cell_erase_ne m h]

/-! ### The canonical form -/

theorem Memory.wf_cons (a : Nat) (v : Byte) (rest : Memory) :
    Memory.wf ((a, v) :: rest) = true ↔ a < 65536 ∧ v ≠ 0x00#8 ∧ (∀ c ∈ rest, a < c.1) ∧ rest.wf = true := by
  simp only [Memory.wf, Bool.and_eq_true, decide_eq_true_eq, bne_iff_ne, List.all_eq_true, and_assoc]
  rfl

@[simp] theorem Memory.wf_init : Memory.init.wf = true := rfl

theorem Memory.wf_erase {m : Memory} (h : m.wf = true) (a : Nat) : (m.erase a).wf = true := by
  induction m with
  | nil => rfl
  | cons c rest ih =>
    obtain ⟨h1, h2, h3, h4⟩ := (Memory.wf_cons c.1 c.2 rest).mp h
    by_cases hc : c.1 = a
    · simpa [Memory.erase, hc] using ih h4
    · have hr : (Memory.erase rest a).wf = true := ih h4
      have : Memory.wf (c :: Memory.erase rest a) = true :=
        (Memory.wf_cons c.1 c.2 _).mpr ⟨h1, h2, fun d hd => h3 d (List.mem_filter.mp hd).1, hr⟩
      simpa [Memory.erase, hc] using this

theorem Memory.mem_insert {c d : Host.Cell} {m : Memory} : d ∈ m.insert c ↔ d = c ∨ d ∈ m := by
  induction m with
  | nil => simp [Memory.insert]
  | cons e rest ih =>
    by_cases h : c.1 < e.1
    · simp [Memory.insert, h]
    · simp [Memory.insert, h, ih]; tauto

theorem Memory.wf_insert {m : Memory} (h : m.wf = true) {a : Nat} {v : Byte} (ha : a < 65536) (hv : v ≠ 0x00#8)
    (hn : ∀ d ∈ m, d.1 ≠ a) : (m.insert (a, v)).wf = true := by
  induction m with
  | nil => exact (Memory.wf_cons a v []).mpr ⟨ha, hv, by simp, rfl⟩
  | cons e rest ih =>
    obtain ⟨h1, h2, h3, h4⟩ := (Memory.wf_cons e.1 e.2 rest).mp h
    by_cases hlt : a < e.1
    · rw [Memory.insert, if_pos hlt]
      refine (Memory.wf_cons a v _).mpr ⟨ha, hv, fun c hc => ?_, h⟩
      rcases List.mem_cons.mp hc with rfl | hc
      · exact hlt
      · exact Nat.lt_trans hlt (h3 c hc)
    · rw [Memory.insert, if_neg hlt]
      have hne := hn e (by simp)
      refine (Memory.wf_cons e.1 e.2 _).mpr ⟨h1, h2, fun c hc => ?_, ih h4 (fun d hd => hn d (by simp [hd]))⟩
      rcases Memory.mem_insert.mp hc with rfl | hc
      · simp only; omega
      · exact h3 c hc

/-- A write keeps the canonical form. -/
theorem Memory.wf_write {m : Memory} (h : m.wf = true) (addr : Nat) (v : Byte) : (m.write addr v).wf = true := by
  by_cases hv : v = 0x00#8
  · simpa [Memory.write, initByte, hv] using Memory.wf_erase h _
  · rw [Memory.write, if_neg (show v ≠ initByte from hv)]
    exact Memory.wf_insert (Memory.wf_erase h (addr % memorySize)) (Nat.mod_lt _ (by decide)) hv Memory.erase_ne

@[simp] theorem State.reset_mem_wf : State.reset.mem.wf = true := rfl

theorem State.hostWrite_wf {s : State} (h : s.mem.wf = true) (addr : Nat) (v : Byte) : (s.hostWrite addr v).mem.wf = true :=
  Memory.wf_write h addr v

theorem State.hostLoad_wf {s : State} (h : s.mem.wf = true) (pairs : List (Word × Byte)) : (s.hostLoad pairs).mem.wf = true := by
  induction pairs generalizing s with
  | nil => exact h
  | cons p rest ih => exact ih (State.hostWrite_wf h p.1.toNat p.2)

@[simp] theorem State.hostReset_wf (s : State) : s.hostReset.mem.wf = true := rfl

theorem State.placeBytes_wf {s : State} (h : s.mem.wf = true) (a : Word) (bs : List Byte) : (s.placeBytes a bs).mem.wf = true := by
  induction bs generalizing s a with
  | nil => exact h
  | cons b rest ih => exact ih (s := { s with mem := s.mem.write a.toNat b }) (Memory.wf_write h a.toNat b) (a + 1#16)

/-- Placing an instruction's bytes keeps the canonical form. -/
theorem State.withFetchWord_wf {s : State} (h : s.mem.wf = true) (nbits w : Nat) : (s.withFetchWord nbits w).mem.wf = true :=
  State.placeBytes_wf h s.pc _

/-- Placing bytes changes memory only. -/
theorem State.placeBytes_frame (s : State) (a : Word) (bs : List Byte) :
    s.placeBytes a bs = { s with mem := (s.placeBytes a bs).mem } := by
  induction bs generalizing s a with
  | nil => rfl
  | cons b rest ih => rw [State.placeBytes, ih]

end Sys2Proof.Machine
end

