-- ==== Sys2Proof/Laws/State.lean ====
section
/-! SUPPORT. Beside State: one lemma per field per update, true by `rfl`, so that no proof unfolds a record update. -/

namespace Sys2Proof.Machine

/-! ### setPc -/

@[simp] theorem State.setPc_pc (s : State) (t : Word) : (s.setPc t).pc = t := rfl
@[simp] theorem State.setPc_sp (s : State) (t : Word) : (s.setPc t).sp = s.sp := rfl
@[simp] theorem State.setPc_acc (s : State) (t : Word) : (s.setPc t).acc = s.acc := rfl
@[simp] theorem State.setPc_regX (s : State) (t : Word) : (s.setPc t).regX = s.regX := rfl
@[simp] theorem State.setPc_regY (s : State) (t : Word) : (s.setPc t).regY = s.regY := rfl
@[simp] theorem State.setPc_flagC (s : State) (t : Word) : (s.setPc t).flagC = s.flagC := rfl
@[simp] theorem State.setPc_flagZ (s : State) (t : Word) : (s.setPc t).flagZ = s.flagZ := rfl
@[simp] theorem State.setPc_flagI (s : State) (t : Word) : (s.setPc t).flagI = s.flagI := rfl
@[simp] theorem State.setPc_flagD (s : State) (t : Word) : (s.setPc t).flagD = s.flagD := rfl
@[simp] theorem State.setPc_flagB (s : State) (t : Word) : (s.setPc t).flagB = s.flagB := rfl
@[simp] theorem State.setPc_flagV (s : State) (t : Word) : (s.setPc t).flagV = s.flagV := rfl
@[simp] theorem State.setPc_flagN (s : State) (t : Word) : (s.setPc t).flagN = s.flagN := rfl
@[simp] theorem State.setPc_mem (s : State) (t : Word) : (s.setPc t).mem = s.mem := rfl
@[simp] theorem State.setPc_reports (s : State) (t : Word) : (s.setPc t).reports = s.reports := rfl

/-! ### setZN -/

@[simp] theorem State.setZN_pc (s : State) (v : Byte) : (s.setZN v).pc = s.pc := rfl
@[simp] theorem State.setZN_sp (s : State) (v : Byte) : (s.setZN v).sp = s.sp := rfl
@[simp] theorem State.setZN_acc (s : State) (v : Byte) : (s.setZN v).acc = s.acc := rfl
@[simp] theorem State.setZN_regX (s : State) (v : Byte) : (s.setZN v).regX = s.regX := rfl
@[simp] theorem State.setZN_regY (s : State) (v : Byte) : (s.setZN v).regY = s.regY := rfl
@[simp] theorem State.setZN_flagC (s : State) (v : Byte) : (s.setZN v).flagC = s.flagC := rfl
@[simp] theorem State.setZN_flagZ (s : State) (v : Byte) : (s.setZN v).flagZ = (v == 0x00#8) := rfl
@[simp] theorem State.setZN_flagI (s : State) (v : Byte) : (s.setZN v).flagI = s.flagI := rfl
@[simp] theorem State.setZN_flagD (s : State) (v : Byte) : (s.setZN v).flagD = s.flagD := rfl
@[simp] theorem State.setZN_flagB (s : State) (v : Byte) : (s.setZN v).flagB = s.flagB := rfl
@[simp] theorem State.setZN_flagV (s : State) (v : Byte) : (s.setZN v).flagV = s.flagV := rfl
@[simp] theorem State.setZN_flagN (s : State) (v : Byte) : (s.setZN v).flagN = v.getLsbD 7 := rfl
@[simp] theorem State.setZN_mem (s : State) (v : Byte) : (s.setZN v).mem = s.mem := rfl
@[simp] theorem State.setZN_reports (s : State) (v : Byte) : (s.setZN v).reports = s.reports := rfl

/-! ### setCarry -/

@[simp] theorem State.setCarry_pc (s : State) : (s.setCarry).pc = s.pc := rfl
@[simp] theorem State.setCarry_sp (s : State) : (s.setCarry).sp = s.sp := rfl
@[simp] theorem State.setCarry_acc (s : State) : (s.setCarry).acc = s.acc := rfl
@[simp] theorem State.setCarry_regX (s : State) : (s.setCarry).regX = s.regX := rfl
@[simp] theorem State.setCarry_regY (s : State) : (s.setCarry).regY = s.regY := rfl
@[simp] theorem State.setCarry_flagC (s : State) : (s.setCarry).flagC = true := rfl
@[simp] theorem State.setCarry_flagZ (s : State) : (s.setCarry).flagZ = s.flagZ := rfl
@[simp] theorem State.setCarry_flagI (s : State) : (s.setCarry).flagI = s.flagI := rfl
@[simp] theorem State.setCarry_flagD (s : State) : (s.setCarry).flagD = s.flagD := rfl
@[simp] theorem State.setCarry_flagB (s : State) : (s.setCarry).flagB = s.flagB := rfl
@[simp] theorem State.setCarry_flagV (s : State) : (s.setCarry).flagV = s.flagV := rfl
@[simp] theorem State.setCarry_flagN (s : State) : (s.setCarry).flagN = s.flagN := rfl
@[simp] theorem State.setCarry_mem (s : State) : (s.setCarry).mem = s.mem := rfl
@[simp] theorem State.setCarry_reports (s : State) : (s.setCarry).reports = s.reports := rfl

/-! ### setDecimal -/

@[simp] theorem State.setDecimal_pc (s : State) : (s.setDecimal).pc = s.pc := rfl
@[simp] theorem State.setDecimal_sp (s : State) : (s.setDecimal).sp = s.sp := rfl
@[simp] theorem State.setDecimal_acc (s : State) : (s.setDecimal).acc = s.acc := rfl
@[simp] theorem State.setDecimal_regX (s : State) : (s.setDecimal).regX = s.regX := rfl
@[simp] theorem State.setDecimal_regY (s : State) : (s.setDecimal).regY = s.regY := rfl
@[simp] theorem State.setDecimal_flagC (s : State) : (s.setDecimal).flagC = s.flagC := rfl
@[simp] theorem State.setDecimal_flagZ (s : State) : (s.setDecimal).flagZ = s.flagZ := rfl
@[simp] theorem State.setDecimal_flagI (s : State) : (s.setDecimal).flagI = s.flagI := rfl
@[simp] theorem State.setDecimal_flagD (s : State) : (s.setDecimal).flagD = true := rfl
@[simp] theorem State.setDecimal_flagB (s : State) : (s.setDecimal).flagB = s.flagB := rfl
@[simp] theorem State.setDecimal_flagV (s : State) : (s.setDecimal).flagV = s.flagV := rfl
@[simp] theorem State.setDecimal_flagN (s : State) : (s.setDecimal).flagN = s.flagN := rfl
@[simp] theorem State.setDecimal_mem (s : State) : (s.setDecimal).mem = s.mem := rfl
@[simp] theorem State.setDecimal_reports (s : State) : (s.setDecimal).reports = s.reports := rfl

/-! ### report -/

@[simp] theorem State.report_pc (s : State) (d : Diagnostic) : (s.report d).pc = s.pc := rfl
@[simp] theorem State.report_sp (s : State) (d : Diagnostic) : (s.report d).sp = s.sp := rfl
@[simp] theorem State.report_acc (s : State) (d : Diagnostic) : (s.report d).acc = s.acc := rfl
@[simp] theorem State.report_regX (s : State) (d : Diagnostic) : (s.report d).regX = s.regX := rfl
@[simp] theorem State.report_regY (s : State) (d : Diagnostic) : (s.report d).regY = s.regY := rfl
@[simp] theorem State.report_flagC (s : State) (d : Diagnostic) : (s.report d).flagC = s.flagC := rfl
@[simp] theorem State.report_flagZ (s : State) (d : Diagnostic) : (s.report d).flagZ = s.flagZ := rfl
@[simp] theorem State.report_flagI (s : State) (d : Diagnostic) : (s.report d).flagI = s.flagI := rfl
@[simp] theorem State.report_flagD (s : State) (d : Diagnostic) : (s.report d).flagD = s.flagD := rfl
@[simp] theorem State.report_flagB (s : State) (d : Diagnostic) : (s.report d).flagB = s.flagB := rfl
@[simp] theorem State.report_flagV (s : State) (d : Diagnostic) : (s.report d).flagV = s.flagV := rfl
@[simp] theorem State.report_flagN (s : State) (d : Diagnostic) : (s.report d).flagN = s.flagN := rfl
@[simp] theorem State.report_mem (s : State) (d : Diagnostic) : (s.report d).mem = s.mem := rfl
@[simp] theorem State.report_reports (s : State) (d : Diagnostic) : (s.report d).reports = s.reports ++ [d] := rfl

/-! ### withFlags -/

@[simp] theorem State.withFlags_pc (s : State) (c z i d b v n : Bool) : (s.withFlags c z i d b v n).pc = s.pc := rfl
@[simp] theorem State.withFlags_sp (s : State) (c z i d b v n : Bool) : (s.withFlags c z i d b v n).sp = s.sp := rfl
@[simp] theorem State.withFlags_acc (s : State) (c z i d b v n : Bool) : (s.withFlags c z i d b v n).acc = s.acc := rfl
@[simp] theorem State.withFlags_regX (s : State) (c z i d b v n : Bool) : (s.withFlags c z i d b v n).regX = s.regX := rfl
@[simp] theorem State.withFlags_regY (s : State) (c z i d b v n : Bool) : (s.withFlags c z i d b v n).regY = s.regY := rfl
@[simp] theorem State.withFlags_flagC (s : State) (c z i d b v n : Bool) : (s.withFlags c z i d b v n).flagC = c := rfl
@[simp] theorem State.withFlags_flagZ (s : State) (c z i d b v n : Bool) : (s.withFlags c z i d b v n).flagZ = z := rfl
@[simp] theorem State.withFlags_flagI (s : State) (c z i d b v n : Bool) : (s.withFlags c z i d b v n).flagI = i := rfl
@[simp] theorem State.withFlags_flagD (s : State) (c z i d b v n : Bool) : (s.withFlags c z i d b v n).flagD = d := rfl
@[simp] theorem State.withFlags_flagB (s : State) (c z i d b v n : Bool) : (s.withFlags c z i d b v n).flagB = b := rfl
@[simp] theorem State.withFlags_flagV (s : State) (c z i d b v n : Bool) : (s.withFlags c z i d b v n).flagV = v := rfl
@[simp] theorem State.withFlags_flagN (s : State) (c z i d b v n : Bool) : (s.withFlags c z i d b v n).flagN = n := rfl
@[simp] theorem State.withFlags_mem (s : State) (c z i d b v n : Bool) : (s.withFlags c z i d b v n).mem = s.mem := rfl
@[simp] theorem State.withFlags_reports (s : State) (c z i d b v n : Bool) : (s.withFlags c z i d b v n).reports = s.reports := rfl

/-! ### advance -/

@[simp] theorem State.advance_pc (s : State) (n : Nat) : (s.advance n).pc = s.pc + BitVec.ofNat 16 n := rfl
@[simp] theorem State.advance_sp (s : State) (n : Nat) : (s.advance n).sp = s.sp := rfl
@[simp] theorem State.advance_acc (s : State) (n : Nat) : (s.advance n).acc = s.acc := rfl
@[simp] theorem State.advance_regX (s : State) (n : Nat) : (s.advance n).regX = s.regX := rfl
@[simp] theorem State.advance_regY (s : State) (n : Nat) : (s.advance n).regY = s.regY := rfl
@[simp] theorem State.advance_flagC (s : State) (n : Nat) : (s.advance n).flagC = s.flagC := rfl
@[simp] theorem State.advance_flagZ (s : State) (n : Nat) : (s.advance n).flagZ = s.flagZ := rfl
@[simp] theorem State.advance_flagI (s : State) (n : Nat) : (s.advance n).flagI = s.flagI := rfl
@[simp] theorem State.advance_flagD (s : State) (n : Nat) : (s.advance n).flagD = s.flagD := rfl
@[simp] theorem State.advance_flagB (s : State) (n : Nat) : (s.advance n).flagB = s.flagB := rfl
@[simp] theorem State.advance_flagV (s : State) (n : Nat) : (s.advance n).flagV = s.flagV := rfl
@[simp] theorem State.advance_flagN (s : State) (n : Nat) : (s.advance n).flagN = s.flagN := rfl
@[simp] theorem State.advance_mem (s : State) (n : Nat) : (s.advance n).mem = s.mem := rfl
@[simp] theorem State.advance_reports (s : State) (n : Nat) : (s.advance n).reports = s.reports := rfl

/-! ### hostWrite -/

@[simp] theorem State.hostWrite_pc (s : State) (addr : Nat) (v : Byte) : (s.hostWrite addr v).pc = s.pc := rfl
@[simp] theorem State.hostWrite_sp (s : State) (addr : Nat) (v : Byte) : (s.hostWrite addr v).sp = s.sp := rfl
@[simp] theorem State.hostWrite_acc (s : State) (addr : Nat) (v : Byte) : (s.hostWrite addr v).acc = s.acc := rfl
@[simp] theorem State.hostWrite_regX (s : State) (addr : Nat) (v : Byte) : (s.hostWrite addr v).regX = s.regX := rfl
@[simp] theorem State.hostWrite_regY (s : State) (addr : Nat) (v : Byte) : (s.hostWrite addr v).regY = s.regY := rfl
@[simp] theorem State.hostWrite_flagC (s : State) (addr : Nat) (v : Byte) : (s.hostWrite addr v).flagC = s.flagC := rfl
@[simp] theorem State.hostWrite_flagZ (s : State) (addr : Nat) (v : Byte) : (s.hostWrite addr v).flagZ = s.flagZ := rfl
@[simp] theorem State.hostWrite_flagI (s : State) (addr : Nat) (v : Byte) : (s.hostWrite addr v).flagI = s.flagI := rfl
@[simp] theorem State.hostWrite_flagD (s : State) (addr : Nat) (v : Byte) : (s.hostWrite addr v).flagD = s.flagD := rfl
@[simp] theorem State.hostWrite_flagB (s : State) (addr : Nat) (v : Byte) : (s.hostWrite addr v).flagB = s.flagB := rfl
@[simp] theorem State.hostWrite_flagV (s : State) (addr : Nat) (v : Byte) : (s.hostWrite addr v).flagV = s.flagV := rfl
@[simp] theorem State.hostWrite_flagN (s : State) (addr : Nat) (v : Byte) : (s.hostWrite addr v).flagN = s.flagN := rfl
@[simp] theorem State.hostWrite_mem (s : State) (addr : Nat) (v : Byte) : (s.hostWrite addr v).mem = s.mem.write addr v := rfl
@[simp] theorem State.hostWrite_reports (s : State) (addr : Nat) (v : Byte) : (s.hostWrite addr v).reports = s.reports := rfl

/-! ### writeReg -/

@[simp] theorem State.writeReg_pc (s : State) (r : Reg) (v : Byte) : (s.writeReg r v).pc = s.pc := by cases r <;> rfl
@[simp] theorem State.writeReg_sp (s : State) (r : Reg) (v : Byte) : (s.writeReg r v).sp = s.sp := by cases r <;> rfl
@[simp] theorem State.writeReg_flagC (s : State) (r : Reg) (v : Byte) : (s.writeReg r v).flagC = s.flagC := by cases r <;> rfl
@[simp] theorem State.writeReg_flagZ (s : State) (r : Reg) (v : Byte) : (s.writeReg r v).flagZ = s.flagZ := by cases r <;> rfl
@[simp] theorem State.writeReg_flagI (s : State) (r : Reg) (v : Byte) : (s.writeReg r v).flagI = s.flagI := by cases r <;> rfl
@[simp] theorem State.writeReg_flagD (s : State) (r : Reg) (v : Byte) : (s.writeReg r v).flagD = s.flagD := by cases r <;> rfl
@[simp] theorem State.writeReg_flagB (s : State) (r : Reg) (v : Byte) : (s.writeReg r v).flagB = s.flagB := by cases r <;> rfl
@[simp] theorem State.writeReg_flagV (s : State) (r : Reg) (v : Byte) : (s.writeReg r v).flagV = s.flagV := by cases r <;> rfl
@[simp] theorem State.writeReg_flagN (s : State) (r : Reg) (v : Byte) : (s.writeReg r v).flagN = s.flagN := by cases r <;> rfl
@[simp] theorem State.writeReg_mem (s : State) (r : Reg) (v : Byte) : (s.writeReg r v).mem = s.mem := by cases r <;> rfl
@[simp] theorem State.writeReg_reports (s : State) (r : Reg) (v : Byte) : (s.writeReg r v).reports = s.reports := by cases r <;> rfl
@[simp] theorem State.writeReg_acc_acc (s : State) (v : Byte) : (s.writeReg .acc v).acc = v := rfl
@[simp] theorem State.writeReg_acc_regX (s : State) (v : Byte) : (s.writeReg .acc v).regX = s.regX := rfl
@[simp] theorem State.writeReg_acc_regY (s : State) (v : Byte) : (s.writeReg .acc v).regY = s.regY := rfl
@[simp] theorem State.writeReg_regX_acc (s : State) (v : Byte) : (s.writeReg .regX v).acc = s.acc := rfl
@[simp] theorem State.writeReg_regX_regX (s : State) (v : Byte) : (s.writeReg .regX v).regX = v := rfl
@[simp] theorem State.writeReg_regX_regY (s : State) (v : Byte) : (s.writeReg .regX v).regY = s.regY := rfl
@[simp] theorem State.writeReg_regY_acc (s : State) (v : Byte) : (s.writeReg .regY v).acc = s.acc := rfl
@[simp] theorem State.writeReg_regY_regX (s : State) (v : Byte) : (s.writeReg .regY v).regX = s.regX := rfl
@[simp] theorem State.writeReg_regY_regY (s : State) (v : Byte) : (s.writeReg .regY v).regY = v := rfl

/-- R20: a general register holds the value last written to it. -/
@[simp] theorem State.readReg_writeReg (s : State) (r : Reg) (v : Byte) : (s.writeReg r v).readReg r = v := by cases r <;> rfl

/-- R20: no two general registers share storage. -/
theorem State.readReg_writeReg_ne (s : State) {r q : Reg} (v : Byte) (h : q ≠ r) : (s.writeReg r v).readReg q = s.readReg q := by
  cases r <;> cases q <;> first | rfl | exact absurd rfl h

/-! ### Reading memory and registers sees only memory and registers -/

@[simp] theorem State.setPc_memRead (s : State) (t : Word) (a : Word) : (s.setPc t).memRead a = s.memRead a := rfl
@[simp] theorem State.setPc_readReg (s : State) (t : Word) (r : Reg) : (s.setPc t).readReg r = s.readReg r := by cases r <;> rfl
@[simp] theorem State.setZN_memRead (s : State) (v : Byte) (a : Word) : (s.setZN v).memRead a = s.memRead a := rfl
@[simp] theorem State.setZN_readReg (s : State) (v : Byte) (r : Reg) : (s.setZN v).readReg r = s.readReg r := by cases r <;> rfl
@[simp] theorem State.setCarry_memRead (s : State) (a : Word) : (s.setCarry).memRead a = s.memRead a := rfl
@[simp] theorem State.setCarry_readReg (s : State) (r : Reg) : (s.setCarry).readReg r = s.readReg r := by cases r <;> rfl
@[simp] theorem State.setDecimal_memRead (s : State) (a : Word) : (s.setDecimal).memRead a = s.memRead a := rfl
@[simp] theorem State.setDecimal_readReg (s : State) (r : Reg) : (s.setDecimal).readReg r = s.readReg r := by cases r <;> rfl
@[simp] theorem State.report_memRead (s : State) (d : Diagnostic) (a : Word) : (s.report d).memRead a = s.memRead a := rfl
@[simp] theorem State.report_readReg (s : State) (d : Diagnostic) (r : Reg) : (s.report d).readReg r = s.readReg r := by cases r <;> rfl
@[simp] theorem State.withFlags_memRead (s : State) (c z i d b v n : Bool) (a : Word) : (s.withFlags c z i d b v n).memRead a = s.memRead a := rfl
@[simp] theorem State.withFlags_readReg (s : State) (c z i d b v n : Bool) (r : Reg) : (s.withFlags c z i d b v n).readReg r = s.readReg r := by cases r <;> rfl
@[simp] theorem State.advance_memRead (s : State) (n : Nat) (a : Word) : (s.advance n).memRead a = s.memRead a := rfl
@[simp] theorem State.advance_readReg (s : State) (n : Nat) (r : Reg) : (s.advance n).readReg r = s.readReg r := by cases r <;> rfl
@[simp] theorem State.writeReg_memRead (s : State) (r : Reg) (v : Byte) (a : Word) : (s.writeReg r v).memRead a = s.memRead a := by cases r <;> rfl

end Sys2Proof.Machine
end

