-- ==== Sys2Proof/Laws/Ops.lean ====
section
/-! SUPPORT. One lemma per shared operation that says everything it does; proofs cite these and leave the operations folded. -/

namespace Sys2Proof.Machine

/-- A load of a literal answers a next state: the register, Z and N, and PC past two bytes. -/
theorem loadImmediate_next (r : Reg) (nn : Byte) (s : State) :
    loadImmediate r nn s = .next (((s.writeReg r nn).setZN nn).advance 2) := rfl

/-- A load through an address answers a next state: the register takes the byte there. -/
theorem loadFrom_next (r : Reg) (len : Nat) (ea : Word) (s : State) :
    loadFrom r len ea s = .next (((s.writeReg r (s.memRead ea)).setZN (s.memRead ea)).advance len) := rfl

/-- A jump to a valid target sets PC and does nothing else. -/
theorem State.jumpTo_valid {s : State} {t : Word} (h : jumpTargetValid t = true) : s.jumpTo t = s.setPc t := by
  simp [State.jumpTo, h]

/-- A jump to a rejected target reports it and does nothing else. -/
theorem State.jumpTo_rejected {s : State} {t : Word} (h : jumpTargetValid t = false) :
    s.jumpTo t = s.report (.invalidJumpTarget t) := by
  simp [State.jumpTo, h]

/-- What a jump may do: take the target, or report it. -/
theorem State.jumpTo_cases (s : State) (t : Word) :
    (jumpTargetValid t = true ∧ s.jumpTo t = s.setPc t) ∨
      (jumpTargetValid t = false ∧ s.jumpTo t = s.report (.invalidJumpTarget t)) := by
  cases h : jumpTargetValid t
  · exact .inr ⟨rfl, State.jumpTo_rejected h⟩
  · exact .inl ⟨rfl, State.jumpTo_valid h⟩

/-- A byte with no row: PC moves by one, one diagnostic is put out. -/
theorem State.consumeUnrecognized_eq (s : State) (op : Byte) :
    s.consumeUnrecognized op =
      { s with pc := s.pc + 1#16, reports := s.reports ++ [.unrecognizedOpcode op s.pc] } := rfl

/-- `Acc & m` into Acc, Z and N from the result. -/
theorem State.andAcc_eq (s : State) (m : Byte) : s.andAcc m = (s.writeReg .acc (s.acc &&& m)).setZN (s.acc &&& m) := rfl

@[simp] theorem fetch_byte (s : State) : (fetch s).1 = s.memRead s.pc := rfl
@[simp] theorem fetch_state (s : State) : (fetch s).2 = s.advance 1 := rfl

/-- Advancing by `m` and then by `n` is advancing by `m + n`. -/
theorem State.advance_advance (s : State) (m n : Nat) : (s.advance m).advance n = s.advance (m + n) := by
  simp [State.advance, State.setPc, BitVec.ofNat_add, BitVec.add_assoc]

theorem State.advance_zero (s : State) : s.advance 0 = s := by simp [State.advance, State.setPc]

/-- Implied is the one mode that returns no address. -/
theorem resolve_fst_eq_none {m : Mode} {s : State} : (resolve m s).1 = none ↔ m = .implied := by
  cases m <;> simp [resolve]

/-- A pair has no meaning only where the mnemonic needs an address and the mode returns none. -/
theorem execForm_eq_none {mn : Mnemonic} {m : Mode} {s : State} :
    execForm mn m s = none ↔ m = .implied ∧ mn ≠ .sec ∧ mn ≠ .sed := by
  cases m <;> cases mn <;> simp [execForm, resolve]

/-- A row has a meaning exactly if its pair does, in every state. -/
theorem hasMeaning_eq_false {r : TableRow} {s : State} :
    r.hasMeaning = false ↔ execForm r.mnemonic r.mode s = none := by
  rw [execForm_eq_none, TableRow.hasMeaning]
  cases r.mnemonic <;> cases r.mode <;> simp

/-- One more unit of an `per_opcode_fetch` budget is one more step at the front. -/
theorem runPerOpcodeFetch_succ (table : List TableRow) (n : Nat) (s : State) :
    runPerOpcodeFetch table (n + 1) s = onNext (stepWith table s) (runPerOpcodeFetch table n) := rfl

theorem onNext_next (s : State) (f : State → Outcome) : onNext (.next s) f = f s := rfl

/-- Chains of outcomes associate. -/
theorem onNext_assoc (o : Outcome) (f g : State → Outcome) : onNext (onNext o f) g = onNext o (fun s => onNext (f s) g) := by
  cases o <;> rfl

/-- A chain of outcomes ends in a next state only through a next state. -/
theorem onNext_eq_next {o : Outcome} {f : State → Outcome} {t : State} (h : onNext o f = .next t) :
    ∃ s, o = .next s ∧ f s = .next t := by
  cases o with
  | next s => exact ⟨s, rfl, h⟩
  | fault r => cases r
  | refused r => cases h

end Sys2Proof.Machine
end

