-- ==== Sys2Proof/Laws/PerInstr.lean ====
section
/-! SUPPORT. Statements for all instructions, one lemma per constructor. -/

namespace Sys2Proof.Laws.EncodedForm

/-- The instruction's row exists (spec/30_encoding.md R66), its operand bytes are as many as its mode consumes (R72), and its encoding
is one byte longer than that (R60). -/
def Statement (i : Instr) : Prop :=
  i.wellFormed = true ∧ (Listing.mk i.mnemonic i.mode i.operands).wellFormed = true ∧
    (encode i).length = 1 + i.mode.operandBytes

theorem andImm (nn : Byte) : Statement (.andImm nn) := ⟨rfl, rfl, rfl⟩
theorem sec : Statement .sec := ⟨rfl, rfl, rfl⟩
theorem jmpAbs (nnnn : Word) : Statement (.jmpAbs nnnn) := ⟨rfl, rfl, rfl⟩
theorem jmpInd (nnnn : Word) : Statement (.jmpInd nnnn) := ⟨rfl, rfl, rfl⟩
theorem ldyImm (nn : Byte) : Statement (.ldyImm nn) := ⟨rfl, rfl, rfl⟩
theorem ldxImm (nn : Byte) : Statement (.ldxImm nn) := ⟨rfl, rfl, rfl⟩
theorem ldyZp (nn : Byte) : Statement (.ldyZp nn) := ⟨rfl, rfl, rfl⟩
theorem ldaZp (nn : Byte) : Statement (.ldaZp nn) := ⟨rfl, rfl, rfl⟩
theorem ldxZp (nn : Byte) : Statement (.ldxZp nn) := ⟨rfl, rfl, rfl⟩
theorem ldaImm (nn : Byte) : Statement (.ldaImm nn) := ⟨rfl, rfl, rfl⟩
theorem ldyAbs (nnnn : Word) : Statement (.ldyAbs nnnn) := ⟨rfl, rfl, rfl⟩
theorem ldaAbs (nnnn : Word) : Statement (.ldaAbs nnnn) := ⟨rfl, rfl, rfl⟩
theorem ldxAbs (nnnn : Word) : Statement (.ldxAbs nnnn) := ⟨rfl, rfl, rfl⟩
theorem ldyZpX (nn : Byte) : Statement (.ldyZpX nn) := ⟨rfl, rfl, rfl⟩
theorem ldaZpX (nn : Byte) : Statement (.ldaZpX nn) := ⟨rfl, rfl, rfl⟩
theorem ldxZpY (nn : Byte) : Statement (.ldxZpY nn) := ⟨rfl, rfl, rfl⟩
theorem ldaAbsY (nnnn : Word) : Statement (.ldaAbsY nnnn) := ⟨rfl, rfl, rfl⟩
theorem ldyAbsX (nnnn : Word) : Statement (.ldyAbsX nnnn) := ⟨rfl, rfl, rfl⟩
theorem ldaAbsX (nnnn : Word) : Statement (.ldaAbsX nnnn) := ⟨rfl, rfl, rfl⟩
theorem ldxAbsY (nnnn : Word) : Statement (.ldxAbsY nnnn) := ⟨rfl, rfl, rfl⟩
theorem sed : Statement .sed := ⟨rfl, rfl, rfl⟩

end Sys2Proof.Laws.EncodedForm
end

