-- ==== Sys2Proof/Tests/Slice0.lean ====
section
/-! SUPPORT. The model's own tests. Expected results come from spec/95_test_vectors.md (S1 to S9, V1 to V9) and from the encodings
of spec/30_encoding.md R66. After them, for every statement with hypotheses, a state and operands that meet them. -/

namespace Sys2Proof.Tests

open Sys2Proof.Machine

/-! ### Well-formedness: an ill-formed term for each check -/

theorem test_wf_pair_lda_zeroPageY : (Listing.mk .lda .zeroPageY [0x10#8]).wellFormed = false := by decide
theorem test_wf_pair_ldx_zeroPageX : (Listing.mk .ldx .zeroPageX [0x10#8]).wellFormed = false := by decide
theorem test_wf_pair_ldy_absoluteY : (Listing.mk .ldy .absoluteY [0x00#8, 0x04#8]).wellFormed = false := by decide
theorem test_wf_pair_and_zeroPage : (Listing.mk .and .zeroPage [0x10#8]).wellFormed = false := by decide
theorem test_wf_pair_relative : (Listing.mk .jmp .relative [0x10#8]).wellFormed = false := by decide
theorem test_wf_operand_short : (Listing.mk .lda .absolute [0x34#8]).wellFormed = false := by decide
theorem test_wf_operand_long : (Listing.mk .sec .implied [0x00#8]).wellFormed = false := by decide
theorem test_wf_accepts : (Listing.mk .ldx .zeroPageY [0xF0#8]).wellFormed = true := by decide

/-! ### Decoding: one word per row, opcode bits as spec/opcode_table.json writes them -/

theorem test_decode_andImm : decode [0b00101001#8, 0b10000001#8, 0xEE#8] = .instr (.andImm 0x81#8) [0xEE#8] := by decide
theorem test_decode_sec : decode [0b00111000#8, 0xEE#8] = .instr .sec [0xEE#8] := by decide
theorem test_decode_jmpAbs : decode [0b01001100#8, 0b00110100#8, 0b00010010#8, 0xEE#8] = .instr (.jmpAbs 0x1234#16) [0xEE#8] := by decide
theorem test_decode_jmpInd : decode [0b01101100#8, 0b00110100#8, 0b00010010#8, 0xEE#8] = .instr (.jmpInd 0x1234#16) [0xEE#8] := by decide
theorem test_decode_ldyImm : decode [0b10100000#8, 0b10000001#8, 0xEE#8] = .instr (.ldyImm 0x81#8) [0xEE#8] := by decide
theorem test_decode_ldxImm : decode [0b10100010#8, 0b10000001#8, 0xEE#8] = .instr (.ldxImm 0x81#8) [0xEE#8] := by decide
theorem test_decode_ldyZp : decode [0b10100100#8, 0b10000001#8, 0xEE#8] = .instr (.ldyZp 0x81#8) [0xEE#8] := by decide
theorem test_decode_ldaZp : decode [0b10100101#8, 0b10000001#8, 0xEE#8] = .instr (.ldaZp 0x81#8) [0xEE#8] := by decide
theorem test_decode_ldxZp : decode [0b10100110#8, 0b10000001#8, 0xEE#8] = .instr (.ldxZp 0x81#8) [0xEE#8] := by decide
theorem test_decode_ldaImm : decode [0b10101001#8, 0b10000001#8, 0xEE#8] = .instr (.ldaImm 0x81#8) [0xEE#8] := by decide
theorem test_decode_ldyAbs : decode [0b10101100#8, 0b00110100#8, 0b00010010#8, 0xEE#8] = .instr (.ldyAbs 0x1234#16) [0xEE#8] := by decide
theorem test_decode_ldaAbs : decode [0b10101101#8, 0b00110100#8, 0b00010010#8, 0xEE#8] = .instr (.ldaAbs 0x1234#16) [0xEE#8] := by decide
theorem test_decode_ldxAbs : decode [0b10101110#8, 0b00110100#8, 0b00010010#8, 0xEE#8] = .instr (.ldxAbs 0x1234#16) [0xEE#8] := by decide
theorem test_decode_ldyZpX : decode [0b10110100#8, 0b10000001#8, 0xEE#8] = .instr (.ldyZpX 0x81#8) [0xEE#8] := by decide
theorem test_decode_ldaZpX : decode [0b10110101#8, 0b10000001#8, 0xEE#8] = .instr (.ldaZpX 0x81#8) [0xEE#8] := by decide
theorem test_decode_ldxZpY : decode [0b10110110#8, 0b10000001#8, 0xEE#8] = .instr (.ldxZpY 0x81#8) [0xEE#8] := by decide
theorem test_decode_ldaAbsY : decode [0b10111001#8, 0b00110100#8, 0b00010010#8, 0xEE#8] = .instr (.ldaAbsY 0x1234#16) [0xEE#8] := by decide
theorem test_decode_ldyAbsX : decode [0b10111100#8, 0b00110100#8, 0b00010010#8, 0xEE#8] = .instr (.ldyAbsX 0x1234#16) [0xEE#8] := by decide
theorem test_decode_ldaAbsX : decode [0b10111101#8, 0b00110100#8, 0b00010010#8, 0xEE#8] = .instr (.ldaAbsX 0x1234#16) [0xEE#8] := by decide
theorem test_decode_ldxAbsY : decode [0b10111110#8, 0b00110100#8, 0b00010010#8, 0xEE#8] = .instr (.ldxAbsY 0x1234#16) [0xEE#8] := by decide
theorem test_decode_sed : decode [0b11111000#8, 0xEE#8] = .instr .sed [0xEE#8] := by decide

theorem test_decode_truncated : decode [0xAD#8, 0x34#8] = .rejected (.operandMissing 0xAD#8) := by decide
theorem test_decode_nothing : decode [] = .rejected .noBytes := by decide
theorem test_decodeTableWord : decodeTableWord 24 0x12344C = some (.jmpAbs 0x1234#16) := by decide
theorem test_decodeTableWord_short : decodeTableWord 8 0x3FFA9 = some (.ldaImm 0x00#8) := by decide
theorem test_encode : encode (.jmpInd 0x1234#16) = [0x6C#8, 0x34#8, 0x12#8] := by decide
theorem test_table_has_21_rows : decodeTable.length = 21 ∧ decodeTable.map TableRow.opcode = knownOpcodes := by decide

/-! ### Steps: the vectors V3 to V7 -/

/-- A small state: PC at `a`, the bytes placed from there, everything else as after reset. -/
def at_ (a : Word) (bytes : List Byte) : State := ({ State.reset with pc := a }).placeBytes a bytes

/-- The common start state of V3. -/
def v3 (bytes : List Byte) : State :=
  ({ at_ 0x0200#16 bytes with
      acc := 0x55#8, regX := 0x04#8, regY := 0x06#8, flagC := true, flagI := true, flagD := true, flagB := true,
      flagV := true }).hostLoad
    [(0x0020#16, 0x80#8), (0x0024#16, 0x7F#8), (0x1234#16, 0xFF#8), (0x1238#16, 0x01#8)]

/-- The next state of one step, if there is one. -/
def after (s : State) : Option State :=
  match step s with
  | .next t => some t
  | .fault _ => none
  | .refused _ => none

/-- What V3 tabulates: the three registers, Z, N, PC and the diagnostics. -/
def seen (t : State) : List Byte × Bool × Bool × Word × List Diagnostic :=
  ([t.acc, t.regX, t.regY], t.flagZ, t.flagN, t.pc, t.reports)

theorem test_v3_ldaImm : (after (v3 [0xA9#8, 0x00#8])).map seen = some ([0x00#8, 0x04#8, 0x06#8], true, false, 0x0202#16, []) := by decide
theorem test_v3_ldaZp : (after (v3 [0xA5#8, 0x20#8])).map seen = some ([0x80#8, 0x04#8, 0x06#8], false, true, 0x0202#16, []) := by decide
theorem test_v3_ldaZpX : (after (v3 [0xB5#8, 0x20#8])).map seen = some ([0x7F#8, 0x04#8, 0x06#8], false, false, 0x0202#16, []) := by decide
theorem test_v3_ldaAbs : (after (v3 [0xAD#8, 0x34#8, 0x12#8])).map seen = some ([0xFF#8, 0x04#8, 0x06#8], false, true, 0x0203#16, []) := by decide
theorem test_v3_ldaAbsX : (after (v3 [0xBD#8, 0x34#8, 0x12#8])).map seen = some ([0x01#8, 0x04#8, 0x06#8], false, false, 0x0203#16, []) := by decide
theorem test_v3_ldaAbsY : (after (v3 [0xB9#8, 0x34#8, 0x12#8])).map seen = some ([0x00#8, 0x04#8, 0x06#8], true, false, 0x0203#16, []) := by decide
theorem test_v3_ldxImm : (after (v3 [0xA2#8, 0x80#8])).map seen = some ([0x55#8, 0x80#8, 0x06#8], false, true, 0x0202#16, []) := by decide
theorem test_v3_ldxZp : (after (v3 [0xA6#8, 0x20#8])).map seen = some ([0x55#8, 0x80#8, 0x06#8], false, true, 0x0202#16, []) := by decide
theorem test_v3_ldxZpY : (after (v3 [0xB6#8, 0x20#8])).map seen = some ([0x55#8, 0x00#8, 0x06#8], true, false, 0x0202#16, []) := by decide
theorem test_v3_ldxAbs : (after (v3 [0xAE#8, 0x34#8, 0x12#8])).map seen = some ([0x55#8, 0xFF#8, 0x06#8], false, true, 0x0203#16, []) := by decide
theorem test_v3_ldxAbsY : (after (v3 [0xBE#8, 0x34#8, 0x12#8])).map seen = some ([0x55#8, 0x00#8, 0x06#8], true, false, 0x0203#16, []) := by decide
theorem test_v3_ldyImm : (after (v3 [0xA0#8, 0x7F#8])).map seen = some ([0x55#8, 0x04#8, 0x7F#8], false, false, 0x0202#16, []) := by decide
theorem test_v3_ldyZp : (after (v3 [0xA4#8, 0x20#8])).map seen = some ([0x55#8, 0x04#8, 0x80#8], false, true, 0x0202#16, []) := by decide
theorem test_v3_ldyZpX : (after (v3 [0xB4#8, 0x20#8])).map seen = some ([0x55#8, 0x04#8, 0x7F#8], false, false, 0x0202#16, []) := by decide
theorem test_v3_ldyAbs : (after (v3 [0xAC#8, 0x34#8, 0x12#8])).map seen = some ([0x55#8, 0x04#8, 0xFF#8], false, true, 0x0203#16, []) := by decide
theorem test_v3_ldyAbsX : (after (v3 [0xBC#8, 0x34#8, 0x12#8])).map seen = some ([0x55#8, 0x04#8, 0x01#8], false, false, 0x0203#16, []) := by decide

/-- V3: a load leaves the other five flags and SP as they were. -/
theorem test_v3_other_flags : (after (v3 [0xA9#8, 0x00#8])).map (fun t => ([t.flagC, t.flagI, t.flagD, t.flagB, t.flagV], t.sp)) =
    some ([true, true, true, true, true], 0x0100#16) := by decide
theorem test_load_straddles_top : (after (at_ 0xFFFE#16 [0xAD#8, 0x34#8, 0x12#8])).map (fun t => (t.acc, t.flagZ, t.pc)) =
    some (0x00#8, true, 0x0001#16) := by decide
theorem test_ldaZpX_stays_in_page_0 :
    (after ((({ at_ 0x0200#16 [0xB5#8, 0x80#8] with regX := 0xFF#8 }).hostLoad [(0x007F#16, 0x11#8), (0x017F#16, 0x22#8)]))).map
      State.acc = some 0x11#8 := by decide
theorem test_ldaAbsY_wraps :
    (after (({ at_ 0x0200#16 [0xB9#8, 0xFF#8, 0xFF#8] with regY := 0x01#8 }).hostLoad [(0x0000#16, 0x33#8)])).map State.acc =
      some 0x33#8 := by decide
theorem test_ldaAbs_own_opcode : (after (at_ 0x0200#16 [0xAD#8, 0x00#8, 0x02#8])).map State.acc = some 0xAD#8 := by decide
theorem test_andImm : (after ({ at_ 0x0202#16 [0x29#8, 0x0F#8] with acc := 0xF0#8, flagN := true })).map seen =
    some ([0x00#8, 0x00#8, 0x00#8], true, false, 0x0204#16, []) := by decide
theorem test_andImm_negative : (after ({ at_ 0xFFFF#16 [0x29#8, 0xC3#8] with acc := 0xF0#8 })).map seen =
    some ([0xC0#8, 0x00#8, 0x00#8], false, true, 0x0001#16, []) := by decide
theorem test_sec : (after (at_ 0xFFFF#16 [0x38#8])).map State.inspect =
    some { State.reset.inspect with pc := 0x0000#16, flagC := true } := by decide
theorem test_sed : (after (at_ 0x0200#16 [0xF8#8])).map State.inspect =
    some { State.reset.inspect with pc := 0x0201#16, flagD := true } := by decide
theorem test_jmpAbs_taken : (after (at_ 0x0500#16 [0x4C#8, 0xF9#8, 0xFF#8])).map (fun t => (t.pc, t.reports)) =
    some (0xFFF9#16, []) := by decide
theorem test_jmpAbs_rejected : (after (at_ 0xFFFE#16 [0x4C#8, 0x50#8, 0x01#8])).map (fun t => (t.pc, t.reports)) =
    some (0x0001#16, [.invalidJumpTarget 0x0150#16]) := by decide
theorem test_jmpInd_no_page_wrap :
    (after ((at_ 0x0500#16 [0x6C#8, 0xFF#8, 0x02#8]).hostLoad [(0x0300#16, 0x04#8), (0x0200#16, 0x09#8)])).map
      (fun t => (t.pc, t.reports)) = some (0x0400#16, []) := by decide
theorem test_jmpInd_rejected :
    (after ((at_ 0x0500#16 [0x6C#8, 0x10#8, 0x00#8]).hostLoad [(0x0010#16, 0xFA#8), (0x0011#16, 0xFF#8)])).map
      (fun t => (t.pc, t.reports)) = some (0x0503#16, [.invalidJumpTarget 0xFFFA#16]) := by decide
theorem test_unrecognized : (after (at_ 0xFFFF#16 [0xFF#8])).map (fun t => (t.inspect, t.reports)) =
    some ({ State.reset.inspect with pc := 0x0000#16 }, [.unrecognizedOpcode 0xFF#8 0xFFFF#16]) := by decide
theorem test_unrecognized_indexed_indirect : (after (at_ 0x0200#16 [0xA1#8, 0x10#8])).map (fun t => (t.pc, t.reports)) =
    some (0x0201#16, [.unrecognizedOpcode 0xA1#8 0x0200#16]) := by decide

/-! ### The operations -/

theorem test_jumpTargetValid_bounds : [0x0000#16, 0x00FF#16, 0x0100#16, 0x01FF#16, 0x0200#16, 0xFFF9#16, 0xFFFA#16, 0xFFFF#16].map
    jumpTargetValid = [true, true, false, false, true, true, false, false] := by decide
theorem test_setZN : [0x00#8, 0x01#8, 0x7F#8, 0x80#8, 0xFF#8].map
    (fun v => let t := ({ State.reset with flagZ := true, flagN := true }).setZN v; (t.flagZ, t.flagN)) =
    [(true, false), (false, false), (false, false), (false, true), (false, true)] := by decide
theorem test_relative_backward : (resolve .relative (at_ 0x0201#16 [0x80#8])).1 = some 0x0182#16 := by decide
theorem test_relative_wraps : (resolve .relative (at_ 0x0000#16 [0xFE#8])).1 = some 0xFFFF#16 := by decide
theorem test_indirect_at_top :
    (resolve .indirect ((at_ 0x0201#16 [0xFF#8, 0xFF#8]).hostLoad [(0xFFFF#16, 0x34#8), (0x0000#16, 0x12#8)])).1 =
      some 0x1234#16 := by decide
theorem test_immediate_at_top : (resolve .immediate (at_ 0xFFFF#16 [])).1 = some 0xFFFF#16 ∧
    (resolve .immediate (at_ 0xFFFF#16 [])).2.pc = 0x0000#16 := by decide
theorem test_memory_no_alias : ([0x1234, 0x11234, 0x1233, 0x1235, 0x3412].map ((Memory.init.write 0x1234 0xAB#8).read)) =
    [0xAB#8, 0xAB#8, 0x00#8, 0x00#8, 0x00#8] := by decide
theorem test_memory_canonical : ((Memory.init.write 5 0x01#8).write 3 0x02#8).write 5 0x00#8 = [(3, 0x02#8)] := by decide
theorem test_wf_refuses_unsorted : Memory.wf [(5, 0x01#8), (3, 0x02#8)] = false := by decide
theorem test_wf_refuses_zero_byte : Memory.wf [(3, 0x00#8)] = false := by decide
theorem test_wf_refuses_out_of_range : Memory.wf [(65536, 0x01#8)] = false := by decide
theorem test_withFetchWord_at_reset : (after (State.reset.withFetchWord 24 0x02004C)).map State.pc = some 0x0200#16 := by decide
theorem test_hostReset_keeps_reports : (after (v3 [0xFF#8])).map State.hostReset =
    some { State.reset with reports := [.unrecognizedOpcode 0xFF#8 0x0200#16] } := by decide

/-- S7: budget 2 is two steps under the chosen accounting and one instruction of two bytes under the other. -/
theorem test_accounting_S7 :
    let s := State.reset.hostLoad [(0xFFFC#16, 0xA9#8), (0xFFFD#16, 0x80#8)]
    onNext (run 2 s) (fun t => .next { State.reset with pc := t.pc, reports := t.reports }) =
      .next { State.reset with pc := 0xFFFF#16, reports := [.unrecognizedOpcode 0x00#8 0xFFFE#16] } ∧
    onNext (runWith ⟨decodeTable, .perFetchedByte⟩ 2 s) (fun t => .next { State.reset with pc := t.pc, reports := t.reports }) =
      .next { State.reset with pc := 0xFFFE#16 } := ⟨rfl, rfl⟩

/-! ### Other values of the two parameters (spec/00_scope.md R6) -/

/-- The pairs spec/41_loads.md R119 lists as absent from the chosen table, AND beyond Immediate, a JMP through Relative, and a load with
no address. -/
def otherTable : List TableRow :=
  [⟨0x01#8, .ldx, .absoluteX⟩, ⟨0x02#8, .lda, .zeroPageY⟩, ⟨0x03#8, .and, .zeroPage⟩, ⟨0x04#8, .jmp, .relative⟩, ⟨0x05#8, .lda, .implied⟩]

/-- LDX Absolute,X reads through the old RegX, and then replaces it. -/
theorem test_other_ldxAbsX :
    stepWith otherTable { at_ 0x0200#16 [0x01#8, 0x02#8, 0x02#8, 0x99#8] with regX := 0x01#8 } =
      .next { at_ 0x0200#16 [0x01#8, 0x02#8, 0x02#8, 0x99#8] with regX := 0x99#8, flagN := true, pc := 0x0203#16 } := rfl
theorem test_other_jmpRelative :
    stepWith otherTable (at_ 0x0300#16 [0x04#8, 0x10#8]) = .next { at_ 0x0300#16 [0x04#8, 0x10#8] with pc := 0x0312#16 } := rfl
theorem test_other_no_address :
    stepWith otherTable (at_ 0x0200#16 [0x05#8]) = .refused (.noSuchForm 0x05#8) := rfl
theorem test_other_decode :
    decodeWith otherTable [0x02#8, 0x10#8, 0xEE#8] = .form ⟨.lda, .zeroPageY, [0x10#8]⟩ [0xEE#8] ∧
    decodeWith otherTable [0x05#8] = .rejected (.noSuchForm 0x05#8) ∧
    decodeWith otherTable [0xA9#8, 0x10#8] = .rejected (.unrecognizedOpcode 0xA9#8) := by decide

/-! ### Witnesses: for every statement with hypotheses, a state and operands that meet them, clause by clause -/

/-- The next state of a step (every step has one). -/
def nextOf (s : State) : State := (after s).getD s

theorem witness_StepRunsDecodedInstruction :
    (∃ i rest, decode ((v3 [0xA5#8, 0x20#8]).bytesAt 0x0200#16 3) = .instr i rest) ∧
    decode (State.reset.bytesAt State.reset.pc 3) = .rejected (.unrecognizedOpcode (State.reset.memRead State.reset.pc)) ∧
    State.reset.instrAt = none :=
  ⟨⟨.ldaZp 0x20#8, [0x00#8], by decide⟩, by decide, by decide⟩

theorem witness_DecodedBytesAreTheEncoding :
    decode [0xBE#8, 0xFF#8, 0xFF#8, 0x00#8] = .instr (.ldxAbsY 0xFFFF#16) [0x00#8] := by decide

theorem witness_UnrecognizedOpcodeConsumesOneByte :
    0x00#8 ∉ knownOpcodes ∧ 0xFF#8 ∉ knownOpcodes ∧ State.reset.memRead State.reset.pc ∉ knownOpcodes ∧ 0xF8#8 ∈ knownOpcodes := by
  decide

theorem witness_LengthComesFromTheMode :
    lookupRow decodeTable 0xFF#8 = none ∧ lookupRow decodeTable 0xBE#8 = some ⟨0xBE#8, .ldx, .absoluteY⟩ ∧
    decode [0x38#8, 0x38#8] = .instr .sec [0x38#8] ∧
    Reserved 0x0100#16 ∧ Reserved 0x01FF#16 ∧ Reserved 0xFFFA#16 ∧ Reserved 0xFFFF#16 ∧
    Reserved ((State.reset.hostLoad [(0x0011#16, 0x01#8)]).memRead16 0x0010#16) := by
  refine ⟨by decide, by decide, by decide, ?_, ?_, ?_, ?_, ?_⟩
  · exact .inl ⟨by decide, by decide⟩
  · exact .inl ⟨by decide, by decide⟩
  · exact .inr ⟨by decide, by decide⟩
  · exact .inr ⟨by decide, by decide⟩
  · exact .inl ⟨by decide, by decide⟩

theorem witness_WellFormedListingsAreInstructions :
    (Listing.mk .lda .absoluteY [0x00#8, 0x04#8]).wellFormed = true ∧
    (Listing.mk .lda .absoluteY [0x00#8, 0x04#8]).toInstr = some (.ldaAbsY 0x0400#16) := by decide

theorem witness_SourceFixedRowsDecideTheStep :
    let table : List TableRow := [⟨0xA2#8, .ldx, .immediate⟩, ⟨0xA9#8, .lda, .immediate⟩]
    (lookupRow table 0xA9#8 = some ⟨0xA9#8, .lda, .immediate⟩ ∧ lookupRow table 0xA2#8 = some ⟨0xA2#8, .ldx, .immediate⟩ ∧
      lookupRow table 0xFF#8 = none) ∧
    (at_ 0xFFFC#16 [0xA9#8]).memRead 0xFFFC#16 = 0xA9#8 ∧ (at_ 0xFFFC#16 [0xA2#8]).memRead 0xFFFC#16 = 0xA2#8 ∧
    (at_ 0xFFFC#16 [0xFF#8]).memRead 0xFFFC#16 = 0xFF#8 := by decide

theorem witness_PlacedInstructionIsFetched :
    decodeTableWord 8 0xF8 = some .sed ∧ decodeTableWord 24 0xFFFF6C = some (.jmpInd 0xFFFF#16) := by decide

/-- One state a step leads to from each kind of opcode, used as the witness of every hypothesis `step s = .next t`. -/
theorem witness_step_next :
    step State.reset = .next (nextOf State.reset) ∧
    step (v3 [0xB4#8, 0x20#8]) = .next (nextOf (v3 [0xB4#8, 0x20#8])) ∧
    step (v3 [0x4C#8, 0x00#8, 0x01#8]) = .next (nextOf (v3 [0x4C#8, 0x00#8, 0x01#8])) ∧
    step (v3 [0x38#8]) = .next (nextOf (v3 [0x38#8])) := ⟨rfl, rfl, rfl, rfl⟩

theorem witness_WriteChangesOneByte :
    exec (.ldaAbs 0x1234#16) State.reset = .next { State.reset with flagZ := true, pc := 0xFFFF#16 } := rfl

theorem witness_CanonicalMemoriesThatReadAlikeAreEqual :
    Memory.wf [(0, 0x01#8), (65535, 0xFF#8)] = true ∧
    ∀ a : Nat, a < 65536 → Memory.read [(0, 0x01#8), (65535, 0xFF#8)] a = Memory.read [(0, 0x01#8), (65535, 0xFF#8)] a :=
  ⟨by decide, fun _ _ => rfl⟩

theorem witness_StepDependsOnlyOnBytesItReads :
    (v3 [0xA5#8, 0x20#8]).readSet = [0x0200#16, 0x0201#16, 0x0020#16] ∧
    (∀ a ∈ (v3 [0xA5#8, 0x20#8]).readSet,
      ({ v3 [0xA5#8, 0x20#8] with mem := [(0x20, 0x80#8), (0x200, 0xA5#8), (0x201, 0x20#8)] }).memRead a =
        (v3 [0xA5#8, 0x20#8]).memRead a) ∧
    step (v3 [0xA5#8, 0x20#8]) = .next (nextOf (v3 [0xA5#8, 0x20#8])) := by
  have h : (v3 [0xA5#8, 0x20#8]).readSet = [0x0200#16, 0x0201#16, 0x0020#16] := by decide
  refine ⟨h, fun a ha => ?_, rfl⟩
  rw [h] at ha
  simp only [List.mem_cons, List.not_mem_nil, or_false] at ha
  rcases ha with rfl | rfl | rfl <;> decide

theorem witness_reset_Inv : State.reset.Inv := ⟨rfl, rfl, rfl, rfl, rfl, by decide⟩

theorem witness_StepKeepsTheInvariant : State.reset.Inv ∧ step State.reset = .next (nextOf State.reset) := ⟨witness_reset_Inv, rfl⟩

theorem witness_HostSessionKeepsTheInvariant : State.reset.Inv := witness_reset_Inv

theorem witness_CarryAndDecimalOnlySet :
    HostOp.reset ∉ [HostOp.load [(0xFFFC#16, 0x38#8)], .run 1] ∧
    session [.load [(0xFFFC#16, 0x38#8)], .run 1] State.reset =
      .next { State.reset with pc := 0xFFFD#16, flagC := true, mem := [(0xFFFC, 0x38#8)] } ∧
    (v3 [0xA9#8, 0x00#8]).flagC = true ∧ (v3 [0xA9#8, 0x00#8]).flagD = true := ⟨by decide, rfl, rfl, rfl⟩

theorem witness_ZeroAndNegativeFollowTheResult :
    (destOf (Instr.ldyAbsX 0x1234#16).mnemonic = some .regY ∧
      exec (.ldyAbsX 0x1234#16) State.reset = .next { State.reset with flagZ := true, pc := 0xFFFF#16 }) ∧
    (destOf Instr.sed.mnemonic = none ∧ exec .sed State.reset = .next { State.reset with flagD := true, pc := 0xFFFD#16 }) ∧
    (State.reset.instrAt = none ∧ step State.reset = .next (nextOf State.reset)) := ⟨⟨rfl, rfl⟩, ⟨rfl, rfl⟩, ⟨by decide, rfl⟩⟩

theorem witness_FlagIsolation :
    Instr.sed.mnemonic ≠ .sec ∧ Instr.sec.mnemonic ≠ .sed ∧ destOf (Instr.jmpAbs 0x0200#16).mnemonic = none ∧
    (Instr.jmpAbs 0x0200#16).mnemonic = .jmp ∧ exec (.jmpAbs 0x0200#16) State.reset = .next { State.reset with pc := 0x0200#16 } ∧
    State.reset.instrAt = none := ⟨by decide, by decide, rfl, rfl, rfl, by decide⟩

theorem witness_SetZNWritesBothFlags :
    destOf (Instr.andImm 0x0F#8).mnemonic = some .acc ∧
    exec (.andImm 0x0F#8) State.reset = .next { State.reset with flagZ := true, pc := 0xFFFE#16 } := ⟨rfl, rfl⟩

theorem witness_LoadClassProperty :
    (v3 [0xB6#8, 0x20#8]).instrAt = some (.ldxZpY 0x20#8) ∧ (Instr.ldxZpY 0x20#8).mnemonic ≠ .and ∧
    destOf (Instr.ldxZpY 0x20#8).mnemonic = some .regX := by decide

theorem witness_FetchReadsAndAdvances : (at_ 0xFFFF#16 [0x77#8]).pc = 0xFFFF#16 := by decide

theorem witness_ImpliedIndirectRelativeResolve :
    (0x0010#16 : Word).toNat = ((at_ 0x0201#16 [0x10#8]).memRead 0x0202#16).toNat * 256 +
      ((at_ 0x0201#16 [0x10#8]).memRead 0x0201#16).toNat ∧
    (at_ 0x0201#16 [0x80#8]).memRead 0x0201#16 = BitVec.ofInt 8 (-128) ∧
    (at_ 0x0201#16 [0x7F#8]).memRead 0x0201#16 = BitVec.ofInt 8 127 := by decide

theorem witness_ModesReadOnlyWhatTheyName :
    Mode.relative ≠ .implied ∧
    (let s := at_ 0x0201#16 [0x10#8, 0x00#8]
     let t : State := { at_ 0x0201#16 [0x10#8, 0x00#8] with acc := 0x55#8, sp := 0xABCD#16, flagC := true }
     s.pc = t.pc ∧ s.bytesAt s.pc 2 = t.bytesAt t.pc 2 ∧ s.regX = t.regX ∧ s.regY = t.regY ∧
       s.memRead16 (s.memRead16 s.pc) = t.memRead16 (t.memRead16 t.pc)) := by decide

theorem witness_opcode_bytes :
    ∀ op ∈ knownOpcodes.map BitVec.toNat, (at_ 0x0200#16 [BitVec.ofNat 8 op]).memRead 0x0200#16 = BitVec.ofNat 8 op := by decide

theorem witness_operand_words :
    let s := at_ 0x0200#16 [0xAD#8, 0x34#8, 0x12#8]
    (0x1234#16 : Word).toNat = (s.memRead (s.pc + 2#16)).toNat * 256 + (s.memRead (s.pc + 1#16)).toNat ∧
      s.memRead s.pc = 0xAD#8 := by decide

theorem witness_LdaLdxImmediate :
    let s := at_ 0xFFFF#16 [0xA9#8, 0x80#8]
    let t := at_ 0xFFFF#16 [0xA2#8, 0x00#8]
    (s.memRead s.pc = 0xA9#8 ∧ s.memRead (s.pc + 1#16) = 0x80#8) ∧
      (t.memRead t.pc = 0xA2#8 ∧ t.memRead (t.pc + 1#16) = 0x00#8) := by decide

theorem witness_indexed_sums_at_the_wrap :
    let s : State := { at_ 0x0200#16 [] with regX := 0xFF#8, regY := 0x01#8 }
    s.hostRead (((0x80#8 : Byte).toNat + s.regX.toNat) % 256) = 0x00#8 ∧
    s.hostRead (((0xFFFF#16 : Word).toNat + s.regY.toNat) % 65536) = 0x00#8 ∧
    s.hostRead ((0xFF#8 : Byte).toNat) = 0x00#8 := by decide

theorem witness_JumpAbsolute :
    ¬Reserved 0x00FF#16 ∧ ¬Reserved 0x0200#16 ∧ ¬Reserved 0xFFF9#16 ∧ Reserved 0x0100#16 ∧ Reserved 0xFFFA#16 := by
  simp [Reserved]

theorem witness_JumpIndirect :
    let s := State.reset.hostLoad [(0xFFFF#16, 0x34#8), (0x0000#16, 0x12#8)]
    ((0x1234#16 : Word).toNat = (s.hostRead ((0xFFFF#16 : Word).toNat + 1)).toNat * 256 +
      (s.hostRead (0xFFFF#16 : Word).toNat).toNat ∧ ¬Reserved 0x1234#16) ∧
    (let u := State.reset.hostLoad [(0x0010#16, 0x50#8), (0x0011#16, 0x01#8)]
     (0x0150#16 : Word).toNat = (u.hostRead ((0x0010#16 : Word).toNat + 1)).toNat * 256 +
      (u.hostRead (0x0010#16 : Word).toNat).toNat ∧ Reserved 0x0150#16) := by
  refine ⟨⟨by decide, by simp [Reserved]⟩, by decide, by simp [Reserved]⟩

theorem witness_LoadsAndLogicalFrame :
    destOf (Instr.ldaZpX 0x10#8).mnemonic = some .acc ∧
    exec (.ldaZpX 0x10#8) State.reset = .next { State.reset with flagZ := true, pc := 0xFFFE#16 } := ⟨rfl, rfl⟩

theorem witness_JumpsAndFlagSetsFrame :
    destOf (Instr.jmpInd 0x0000#16).mnemonic = none ∧
    exec (.jmpInd 0x0000#16) State.reset = .next { State.reset with pc := 0x0000#16 } ∧
    Instr.sec.mnemonic ≠ .jmp ∧ Instr.sed.mnemonic ≠ .sec ∧ (Instr.jmpInd 0x0000#16).mnemonic ≠ .sed :=
  ⟨rfl, rfl, by decide, by decide, by decide⟩

theorem witness_PcAfterEachStep :
    (v3 [0x4C#8, 0x00#8, 0x01#8]).instrAt = some (.jmpAbs 0x0100#16) ∧
    (v3 [0x6C#8, 0x00#8, 0x00#8]).instrAt = some (.jmpInd 0x0000#16) ∧
    (v3 [0xB4#8, 0x20#8]).instrAt = some (.ldyZpX 0x20#8) ∧ State.reset.instrAt = none ∧
    ¬Reserved ((v3 [0x6C#8, 0x00#8, 0x00#8]).memRead16 0x0000#16) := by
  refine ⟨by decide, by decide, by decide, by decide, ?_⟩
  rw [show (v3 [0x6C#8, 0x00#8, 0x00#8]).memRead16 0x0000#16 = 0x0000#16 by decide]
  simp [Reserved]

theorem witness_ReservedRegionsEnteredByFallThroughOnly :
    step (at_ 0x00FF#16 [0x38#8]) = .next (nextOf (at_ 0x00FF#16 [0x38#8])) ∧ Reserved (nextOf (at_ 0x00FF#16 [0x38#8])).pc := by
  refine ⟨rfl, ?_⟩
  rw [show (nextOf (at_ 0x00FF#16 [0x38#8])).pc = 0x0100#16 by decide]
  simp [Reserved]

theorem witness_RunOverUnloadedMemory : State.reset.mem = [] := rfl

theorem witness_StepRunsWhatAnyTableDecodes :
    decodeWith decodeTable ((v3 [0xA5#8, 0x20#8]).bytesAt 0x0200#16 3) = .instr (.ldaZp 0x20#8) [0x00#8] ∧
    decodeWith otherTable ((at_ 0x0200#16 [0x03#8, 0x20#8]).bytesAt 0x0200#16 3) = .form ⟨.and, .zeroPage, [0x20#8]⟩ [0x00#8] ∧
    decodeWith otherTable ((at_ 0x0200#16 [0xA9#8]).bytesAt 0x0200#16 3) = .rejected (.unrecognizedOpcode 0xA9#8) ∧
    decodeWith otherTable ((at_ 0x0200#16 [0x05#8]).bytesAt 0x0200#16 3) = .rejected (.noSuchForm 0x05#8) := by decide

theorem witness_StepUnderAnyTableRefinesTheStreamReading :
    streamStepWith otherTable (at_ 0x0300#16 [0x04#8, 0x10#8]) = some { at_ 0x0300#16 [0x04#8, 0x10#8] with pc := 0x0312#16 } ∧
    lookupRow otherTable ((at_ 0x0200#16 [0x05#8]).memRead 0x0200#16) = some ⟨0x05#8, .lda, .implied⟩ := ⟨rfl, by decide⟩

/-- A row and a resolved address for each clause; the addresses of the two jumps stand at the two sides of the check. -/
theorem witness_LoadsAndJumpsWorkThroughTheResolvedAddress :
    (∀ r ∈ [(⟨0x02#8, .lda, .zeroPageY⟩ : TableRow), ⟨0x01#8, .ldx, .absoluteX⟩], lookupRow otherTable r.opcode = some r) ∧
    lookupRow decodeTable 0xBC#8 = some ⟨0xBC#8, .ldy, .absoluteX⟩ ∧
    (resolve .absoluteX ((at_ 0x0200#16 [0xBC#8, 0xFF#8, 0xFF#8]).advance 1)).1 = some 0xFFFF#16 ∧
    (resolve .relative ((at_ 0x0200#16 [0x04#8, 0xFE#8]).advance 1)).1 = some 0x0200#16 ∧ ¬Reserved 0x0200#16 ∧
    (resolve .relative ((at_ 0x0200#16 [0x04#8, 0xFD#8]).advance 1)).1 = some 0x01FF#16 ∧ Reserved 0x01FF#16 := by
  refine ⟨by decide, by decide, by decide, by decide, by simp [Reserved], by decide, .inl ⟨by decide, by decide⟩⟩

theorem witness_HostSessionUnderAnyParametersKeepsTheInvariant :
    State.reset.Inv ∧ (∀ row ∈ decodeTable, row.hasMeaning = true) ∧
    sessionWith ⟨[], .perFetchedByte⟩ [.load [(0xFFFC#16, 0x38#8)], .run 1, .reset] State.reset =
      .next { State.reset with reports := [.unrecognizedOpcode 0x38#8 0xFFFC#16] } := ⟨witness_reset_Inv, by decide, rfl⟩

end Sys2Proof.Tests
end

/-! ## The step, said once

`State.effect` is what a step does, read off the state before it; `step_eq` says that the step is exactly that. -/

namespace Sys2Proof.Machine

/-! ### Fetching and decoding at PC -/

theorem State.bytesAt_length (s : State) (a : Word) (n : Nat) : (s.bytesAt a n).length = n := by
  induction n generalizing a with
  | zero => rfl
  | succ n ih => simp [State.bytesAt, ih]

theorem State.bytesAt_take (s : State) (a : Word) {m n : Nat} (h : m ≤ n) : (s.bytesAt a n).take m = s.bytesAt a m := by
  induction n generalizing a m with
  | zero => simp [Nat.le_zero.mp h, State.bytesAt]
  | succ n ih =>
    cases m with
    | zero => rfl
    | succ m => simp [State.bytesAt, ih (a + 1#16) (Nat.le_of_succ_le_succ h)]

theorem operandBytes_le_two (m : Mode) : m.operandBytes ≤ 2 := by cases m <;> decide

/-- Three bytes at PC are enough for any row (R60): the decoder never runs out of them, and under any table it reads a row as the
operand bytes that a step fetches. -/
theorem decodeInstrWith_bytesAt (table : List TableRow) (s : State) :
    decodeInstrWith table (s.bytesAt s.pc 3) = (lookupRow table (s.memRead s.pc)).bind fun r =>
      Listing.toInstr ⟨r.mnemonic, r.mode, s.bytesAt (s.pc + 1#16) r.mode.operandBytes⟩ := by
  rw [State.bytesAt, decodeInstrWith, decodeWith]
  cases lookupRow table (s.memRead s.pc) with
  | none => rfl
  | some r =>
    have hle := operandBytes_le_two r.mode
    simp only [State.bytesAt_length, Nat.not_lt.mpr hle, if_false, s.bytesAt_take _ hle, Option.bind_some]
    cases Listing.toInstr ⟨r.mnemonic, r.mode, s.bytesAt (s.pc + 1#16) r.mode.operandBytes⟩ with
    | some i => rfl
    | none => cases r.hasMeaning <;> rfl

/-- Under any table a step at the bytes of an instruction runs that instruction. -/
theorem stepWith_of_decodeInstrWith {table : List TableRow} {s : State} {i : Instr}
    (h : decodeInstrWith table (s.bytesAt s.pc 3) = some i) : stepWith table s = exec i s := by
  rw [decodeInstrWith_bytesAt, Option.bind_eq_some_iff] at h
  obtain ⟨r, hrow, hinstr⟩ := h
  simp [stepWith, hrow, hinstr]

/-- Every row of the chosen table is an instruction, whatever its operand bytes are. -/
theorem decodeTable_rows_are_instrs (s : State) (a : Word) : ∀ r ∈ decodeTable,
    (Listing.toInstr ⟨r.mnemonic, r.mode, s.bytesAt a r.mode.operandBytes⟩).isSome = true :=
  List.all_eq_true.mp rfl

/-- No instruction stands at PC exactly if the byte there has no row. -/
theorem State.instrAt_eq_none_iff {s : State} : s.instrAt = none ↔ lookupRow decodeTable (s.memRead s.pc) = none := by
  rw [State.instrAt, decodeInstrWith_bytesAt, Option.bind_eq_none_iff]
  constructor
  · intro h
    cases hrow : lookupRow decodeTable (s.memRead s.pc) with
    | none => rfl
    | some r =>
      have := decodeTable_rows_are_instrs s (s.pc + 1#16) r (List.mem_of_find?_eq_some hrow)
      simp [h r hrow] at this
  · intro h r hrow
    simp [h] at hrow

theorem step_of_instrAt_eq_some {s : State} {i : Instr} (h : s.instrAt = some i) : step s = exec i s :=
  stepWith_of_decodeInstrWith h

theorem step_of_instrAt_eq_none {s : State} (h : s.instrAt = none) :
    step s = .next (s.consumeUnrecognized (s.memRead s.pc)) := by
  simp [step, stepWith, State.instrAt_eq_none_iff.mp h]

/-! ### What a step can do -/

/-- The five things a step can do. -/
inductive Effect where
  /-- A load or AND of `len` bytes: the register takes the byte loaded or computed, Zero and Negative follow it. -/
  | load (r : Reg) (v : Byte) (len : Nat)
  /-- A JMP to a resolved target. -/
  | jump (t : Word)
  | setCarry
  | setDecimal
  /-- A byte with no row. -/
  | unrecognized (op : Byte)

/-- The state after an effect. -/
def Effect.apply : Effect → State → State
  | .load r v len, s => ((s.writeReg r v).setZN v).advance len
  | .jump t, s => (s.advance 3).jumpTo t
  | .setCarry, s => s.setCarry.advance 1
  | .setDecimal, s => s.setDecimal.advance 1
  | .unrecognized op, s => s.consumeUnrecognized op

/-- The effect of an instruction, its operand resolved. -/
def effectOf (i : Instr) (s : State) : Effect :=
  match i with
  | .andImm nn => .load .acc (s.acc &&& nn) 2
  | .ldaImm nn => .load .acc nn 2
  | .ldxImm nn => .load .regX nn 2
  | .ldyImm nn => .load .regY nn 2
  | .ldaZp nn => .load .acc (s.memRead (zeroPageAddr nn)) 2
  | .ldxZp nn => .load .regX (s.memRead (zeroPageAddr nn)) 2
  | .ldyZp nn => .load .regY (s.memRead (zeroPageAddr nn)) 2
  | .ldaZpX nn => .load .acc (s.memRead (zeroPageXAddr nn s)) 2
  | .ldxZpY nn => .load .regX (s.memRead (zeroPageYAddr nn s)) 2
  | .ldyZpX nn => .load .regY (s.memRead (zeroPageXAddr nn s)) 2
  | .ldaAbs nnnn => .load .acc (s.memRead (absoluteAddr nnnn)) 3
  | .ldxAbs nnnn => .load .regX (s.memRead (absoluteAddr nnnn)) 3
  | .ldyAbs nnnn => .load .regY (s.memRead (absoluteAddr nnnn)) 3
  | .ldaAbsX nnnn => .load .acc (s.memRead (absoluteXAddr nnnn s)) 3
  | .ldyAbsX nnnn => .load .regY (s.memRead (absoluteXAddr nnnn s)) 3
  | .ldaAbsY nnnn => .load .acc (s.memRead (absoluteYAddr nnnn s)) 3
  | .ldxAbsY nnnn => .load .regX (s.memRead (absoluteYAddr nnnn s)) 3
  | .jmpAbs nnnn => .jump (absoluteAddr nnnn)
  | .jmpInd nnnn => .jump (indirectAddr nnnn s)
  | .sec => .setCarry
  | .sed => .setDecimal

/-- The effect of the step from a state. -/
def State.effect (s : State) : Effect :=
  match s.instrAt with
  | some i => effectOf i s
  | none => .unrecognized (s.memRead s.pc)

/-- Every instruction answers a next state, the one its effect leads to. -/
theorem exec_eq (i : Instr) (s : State) : exec i s = .next ((effectOf i s).apply s) := by cases i <;> rfl

/-- Every step answers a next state, the one its effect leads to. -/
theorem step_eq (s : State) : step s = .next (s.effect.apply s) := by
  cases h : s.instrAt with
  | some i => rw [step_of_instrAt_eq_some h, exec_eq, State.effect, h]
  | none => rw [step_of_instrAt_eq_none h, State.effect, h, Effect.apply]

theorem exec_eq_next_iff {i : Instr} {s t : State} : exec i s = .next t ↔ (effectOf i s).apply s = t := by
  rw [exec_eq, Host.Outcome.next.injEq]

theorem step_eq_next_iff {s t : State} : step s = .next t ↔ s.effect.apply s = t := by
  rw [step_eq, Host.Outcome.next.injEq]

/-- LDA, LDX, LDY and AND, and only they, have a destination; they load it. -/
theorem effectOf_of_destOf_eq_some {i : Instr} {r : Reg} (h : destOf i.mnemonic = some r) (s : State) :
    ∃ v, effectOf i s = .load r v (encode i).length := by
  cases i <;> cases h <;> exact ⟨_, rfl⟩

theorem effectOf_of_mnemonic_eq_jmp {i : Instr} (h : i.mnemonic = .jmp) (s : State) : ∃ t, effectOf i s = .jump t := by
  cases i <;> cases h <;> exact ⟨_, rfl⟩

/-! ### What an effect depends on: PC, the general registers and memory -/

theorem effectOf_congr (i : Instr) {s t : State} (hacc : s.acc = t.acc) (hx : s.regX = t.regX) (hy : s.regY = t.regY)
    (hmem : s.mem = t.mem) : effectOf i s = effectOf i t := by
  have hread : s.memRead = t.memRead := by funext a; rw [State.memRead, hmem, State.memRead]
  cases i <;> simp only [effectOf, zeroPageXAddr, zeroPageYAddr, absoluteXAddr, absoluteYAddr, indirectAddr, State.memRead16,
    hacc, hx, hy, hread]

theorem State.bytesAt_congr {s t : State} (hmem : s.mem = t.mem) (a : Word) (n : Nat) : s.bytesAt a n = t.bytesAt a n := by
  induction n generalizing a with
  | zero => rfl
  | succ n ih => rw [State.bytesAt, ih, State.memRead, hmem]; rfl

theorem State.instrAt_congr {s t : State} (hpc : s.pc = t.pc) (hmem : s.mem = t.mem) : s.instrAt = t.instrAt := by
  rw [State.instrAt, State.bytesAt_congr hmem, hpc, State.instrAt]

theorem State.effect_congr {s t : State} (hpc : s.pc = t.pc) (hacc : s.acc = t.acc) (hx : s.regX = t.regX)
    (hy : s.regY = t.regY) (hmem : s.mem = t.mem) : s.effect = t.effect := by
  rw [State.effect, State.effect, State.instrAt_congr hpc hmem, State.memRead, hpc, hmem]
  cases t.instrAt with
  | some i => exact effectOf_congr i hacc hx hy hmem
  | none => rfl

/-- No flag decides what a step does. -/
theorem State.effect_withFlags (s : State) (c z i d b v n : Bool) : (s.withFlags c z i d b v n).effect = s.effect :=
  State.effect_congr rfl rfl rfl rfl rfl

/-- A mode consumes its operand bytes and does nothing else (R72, R92). -/
theorem resolve_snd (m : Mode) (s : State) : (resolve m s).2 = s.advance m.operandBytes := by
  cases m <;> simp [resolve, fetch16, Mode.operandBytes, State.advance_zero, State.advance_advance]

/-! ### The flags after an effect -/

/-- Carry after an effect, from Carry before it. -/
def Effect.carryAfter (e : Effect) (c : Bool) : Bool :=
  match e with
  | .setCarry => true
  | _ => c

/-- DecimalMode after an effect, from DecimalMode before it. -/
def Effect.decimalAfter (e : Effect) (d : Bool) : Bool :=
  match e with
  | .setDecimal => true
  | _ => d

/-- Zero after an effect, from Zero before it. -/
def Effect.zeroAfter (e : Effect) (z : Bool) : Bool :=
  match e with
  | .load _ v _ => v == 0x00#8
  | _ => z

/-- Negative after an effect, from Negative before it. -/
def Effect.negativeAfter (e : Effect) (n : Bool) : Bool :=
  match e with
  | .load _ v _ => v.getLsbD 7
  | _ => n

theorem State.jumpTo_withFlags (s : State) (t : Word) (c z i d b v n : Bool) :
    (s.withFlags c z i d b v n).jumpTo t = (s.jumpTo t).withFlags c z i d b v n := by
  cases h : jumpTargetValid t
  · rw [State.jumpTo_rejected h, State.jumpTo_rejected h]; rfl
  · rw [State.jumpTo_valid h, State.jumpTo_valid h]; rfl

/-- A jump writes PC and the reports alone. -/
theorem State.jumpTo_frame (s : State) (t : Word) :
    s.jumpTo t = { s with pc := (s.jumpTo t).pc, reports := (s.jumpTo t).reports } := by
  obtain ⟨-, h⟩ | ⟨-, h⟩ := s.jumpTo_cases t <;> rw [h] <;> rfl

/-- The one case analysis about flags: an effect works flag by flag, and the rest of what it does is the same under any seven flags. -/
theorem Effect.apply_withFlags (e : Effect) (s : State) (c z i d b v n : Bool) :
    e.apply (s.withFlags c z i d b v n) =
      (e.apply s).withFlags (e.carryAfter c) (e.zeroAfter z) i (e.decimalAfter d) b v (e.negativeAfter n) := by
  cases e with
  | load r w len => cases r <;> rfl
  | jump t => exact State.jumpTo_withFlags (s.advance 3) t c z i d b v n
  | setCarry => rfl
  | setDecimal => rfl
  | unrecognized op => rfl

theorem Effect.apply_eq_withFlags (e : Effect) (s : State) :
    e.apply s = (e.apply s).withFlags (e.carryAfter s.flagC) (e.zeroAfter s.flagZ) s.flagI (e.decimalAfter s.flagD) s.flagB
      s.flagV (e.negativeAfter s.flagN) :=
  e.apply_withFlags s s.flagC s.flagZ s.flagI s.flagD s.flagB s.flagV s.flagN

@[simp] theorem Effect.apply_flagC (e : Effect) (s : State) : (e.apply s).flagC = e.carryAfter s.flagC := by
  rw [Effect.apply_eq_withFlags]; rfl

@[simp] theorem Effect.apply_flagZ (e : Effect) (s : State) : (e.apply s).flagZ = e.zeroAfter s.flagZ := by
  rw [Effect.apply_eq_withFlags]; rfl

@[simp] theorem Effect.apply_flagI (e : Effect) (s : State) : (e.apply s).flagI = s.flagI := by
  rw [Effect.apply_eq_withFlags]; rfl

@[simp] theorem Effect.apply_flagD (e : Effect) (s : State) : (e.apply s).flagD = e.decimalAfter s.flagD := by
  rw [Effect.apply_eq_withFlags]; rfl

@[simp] theorem Effect.apply_flagB (e : Effect) (s : State) : (e.apply s).flagB = s.flagB := by
  rw [Effect.apply_eq_withFlags]; rfl

@[simp] theorem Effect.apply_flagV (e : Effect) (s : State) : (e.apply s).flagV = s.flagV := by
  rw [Effect.apply_eq_withFlags]; rfl

@[simp] theorem Effect.apply_flagN (e : Effect) (s : State) : (e.apply s).flagN = e.negativeAfter s.flagN := by
  rw [Effect.apply_eq_withFlags]; rfl

/-- A step under any seven flags: InterruptDisable, BreakCommand and Overflow stay, the other four follow the effect, and the rest is
as under the state's own flags. -/
theorem step_withFlags {s t : State} (h : step s = .next t) (c z i d b v n : Bool) :
    step (s.withFlags c z i d b v n) = .next (t.withFlags (s.effect.carryAfter c) (s.effect.zeroAfter z) i
      (s.effect.decimalAfter d) b v (s.effect.negativeAfter n)) := by
  rw [step_eq, State.effect_withFlags, Effect.apply_withFlags, step_eq_next_iff.mp h]

theorem mnemonic_eq_sec_iff {i : Instr} : i.mnemonic = .sec ↔ i = .sec := by
  cases i <;> simp [Instr.mnemonic]

theorem mnemonic_eq_sed_iff {i : Instr} : i.mnemonic = .sed ↔ i = .sed := by
  cases i <;> simp [Instr.mnemonic]

/-- SEC alone sets Carry. -/
theorem effectOf_carryAfter (i : Instr) (s : State) (c : Bool) :
    (effectOf i s).carryAfter c = (c || decide (i = .sec)) := by
  cases i <;> simp [effectOf, Effect.carryAfter]

/-- SED alone sets DecimalMode. -/
theorem effectOf_decimalAfter (i : Instr) (s : State) (d : Bool) :
    (effectOf i s).decimalAfter d = (d || decide (i = .sed)) := by
  cases i <;> simp [effectOf, Effect.decimalAfter]

theorem State.effect_carryAfter (s : State) (c : Bool) :
    s.effect.carryAfter c = (c || decide (s.instrAt = some .sec)) := by
  cases h : s.instrAt with
  | some i => simp [State.effect, h, effectOf_carryAfter]
  | none => simp [State.effect, h, Effect.carryAfter]

theorem State.effect_decimalAfter (s : State) (d : Bool) :
    s.effect.decimalAfter d = (d || decide (s.instrAt = some .sed)) := by
  cases h : s.instrAt with
  | some i => simp [State.effect, h, effectOf_decimalAfter]
  | none => simp [State.effect, h, Effect.decimalAfter]

/-- An instruction without a destination leaves Zero and Negative. -/
theorem effectOf_zeroAfter_negativeAfter {i : Instr} (h : destOf i.mnemonic = none) (s : State) (z n : Bool) :
    (effectOf i s).zeroAfter z = z ∧ (effectOf i s).negativeAfter n = n := by
  cases i <;> cases h <;> exact ⟨rfl, rfl⟩

/-! ### Runs and sessions -/

/-- What every step keeps, a run keeps, paid for by the step. -/
theorem runPerOpcodeFetch_keeps {P : State → Prop} {table : List TableRow}
    (hstep : ∀ s t, P s → stepWith table s = .next t → P t) {budget : Nat} {s t : State} (hs : P s)
    (h : runPerOpcodeFetch table budget s = .next t) : P t := by
  induction budget generalizing s with
  | zero => cases h; exact hs
  | succ budget ih =>
    obtain ⟨u, hu, hrest⟩ := onNext_eq_next h
    exact ih (hstep s u hs hu) hrest

/-- What every step keeps, a run keeps, paid for by the byte. -/
theorem runBytesLoop_keeps {P : State → Prop} {table : List TableRow}
    (hstep : ∀ s t, P s → stepWith table s = .next t → P t) {fuel budget : Nat} {s t : State} (hs : P s)
    (h : runBytesLoop table fuel budget s = .next t) : P t := by
  induction fuel generalizing budget s with
  | zero => cases h; exact hs
  | succ fuel ih =>
    cases budget with
    | zero => cases h; exact hs
    | succ budget =>
      obtain ⟨u, hu, hrest⟩ := onNext_eq_next h
      exact ih (hstep s u hs hu) hrest

/-- What every step keeps, a run keeps, under any value of both parameters. -/
theorem runWith_keeps {P : State → Prop} {p : Parameters} (hstep : ∀ s t, P s → stepWith p.table s = .next t → P t)
    {budget : Nat} {s t : State} (hs : P s) (h : runWith p budget s = .next t) : P t := by
  obtain ⟨table, accounting⟩ := p
  cases accounting with
  | perOpcodeFetch => exact runPerOpcodeFetch_keeps hstep hs h
  | perFetchedByte => exact runBytesLoop_keeps hstep hs h

/-- What every step, every load and, where the session holds one, every reset keeps, a session keeps. -/
theorem sessionWith_keeps {P : State → Prop} {p : Parameters} {ops : List HostOp}
    (hstep : ∀ s t, P s → stepWith p.table s = .next t → P t) (hload : ∀ s pairs, P s → P (s.hostLoad pairs))
    (hreset : HostOp.reset ∈ ops → ∀ s, P s → P s.hostReset) {s t : State} (hs : P s)
    (h : sessionWith p ops s = .next t) : P t := by
  induction ops generalizing s with
  | nil => cases h; exact hs
  | cons o rest ih =>
    obtain ⟨u, hu, hrest⟩ := onNext_eq_next h
    have hPu : P u := by
      cases o with
      | reset => cases hu; exact hreset List.mem_cons_self s hs
      | load pairs => cases hu; exact hload s pairs hs
      | run budget => exact runWith_keeps hstep hs hu
    exact ih (fun hmem => hreset (List.mem_cons_of_mem o hmem)) hPu hrest

theorem runPerOpcodeFetch_completes {table : List TableRow} (hstep : ∀ s, ∃ t, stepWith table s = .next t) (budget : Nat)
    (s : State) : ∃ t, runPerOpcodeFetch table budget s = .next t := by
  induction budget generalizing s with
  | zero => exact ⟨s, rfl⟩
  | succ budget ih =>
    obtain ⟨u, hu⟩ := hstep s
    rw [runPerOpcodeFetch_succ, hu]
    exact ih u

theorem runBytesLoop_completes {table : List TableRow} (hstep : ∀ s, ∃ t, stepWith table s = .next t) (fuel budget : Nat)
    (s : State) : ∃ t, runBytesLoop table fuel budget s = .next t := by
  induction fuel generalizing budget s with
  | zero => exact ⟨s, rfl⟩
  | succ fuel ih =>
    cases budget with
    | zero => exact ⟨s, rfl⟩
    | succ budget =>
      obtain ⟨u, hu⟩ := hstep s
      rw [runBytesLoop, hu]
      exact ih _ u

/-- Where every step answers a next state, a run does, under either accounting. -/
theorem runWith_completes {p : Parameters} (hstep : ∀ s, ∃ t, stepWith p.table s = .next t) (budget : Nat) (s : State) :
    ∃ t, runWith p budget s = .next t := by
  obtain ⟨table, accounting⟩ := p
  cases accounting with
  | perOpcodeFetch => exact runPerOpcodeFetch_completes hstep budget s
  | perFetchedByte => exact runBytesLoop_completes hstep budget budget s

/-- Where every step answers a next state, a session does. -/
theorem sessionWith_completes {p : Parameters} (hstep : ∀ s, ∃ t, stepWith p.table s = .next t) (ops : List HostOp)
    (s : State) : ∃ t, sessionWith p ops s = .next t := by
  induction ops generalizing s with
  | nil => exact ⟨s, rfl⟩
  | cons o rest ih =>
    have ho : ∃ u, hostOpWith p o s = .next u := by
      cases o with
      | reset => exact ⟨_, rfl⟩
      | load pairs => exact ⟨_, rfl⟩
      | run budget => exact runWith_completes hstep budget s
    obtain ⟨u, hu⟩ := ho
    obtain ⟨t, ht⟩ := ih u
    exact ⟨t, by rw [sessionWith, hu, onNext_next, ht]⟩

theorem session_completes (ops : List HostOp) (s : State) : ∃ t, session ops s = .next t :=
  sessionWith_completes (p := chosenParameters) (fun s => ⟨_, step_eq s⟩) ops s

/-- The loader writes memory alone. -/
theorem State.hostLoad_frame (s : State) (pairs : List (Word × Byte)) :
    s.hostLoad pairs = { s with mem := (s.hostLoad pairs).mem } := by
  induction pairs generalizing s with
  | nil => rfl
  | cons p rest ih => exact ih (s.hostWrite p.1.toNat p.2)

@[simp] theorem State.hostLoad_flagC (s : State) (pairs : List (Word × Byte)) : (s.hostLoad pairs).flagC = s.flagC := by
  rw [State.hostLoad_frame]

@[simp] theorem State.hostLoad_flagD (s : State) (pairs : List (Word × Byte)) : (s.hostLoad pairs).flagD = s.flagD := by
  rw [State.hostLoad_frame]

@[simp] theorem State.hostLoad_flagI (s : State) (pairs : List (Word × Byte)) : (s.hostLoad pairs).flagI = s.flagI := by
  rw [State.hostLoad_frame]

@[simp] theorem State.hostLoad_flagB (s : State) (pairs : List (Word × Byte)) : (s.hostLoad pairs).flagB = s.flagB := by
  rw [State.hostLoad_frame]

@[simp] theorem State.hostLoad_flagV (s : State) (pairs : List (Word × Byte)) : (s.hostLoad pairs).flagV = s.flagV := by
  rw [State.hostLoad_frame]

/-! ### The state family of obligations -/

/-- Settles O18: an effect leaves the three flags, and what a step does is decided without a flag. -/
theorem unusedFlagsHoldZero : Obligations.UnusedFlagsHoldZero := by
  have hkept (s t : State) (h : step s = .next t) : t.flagI = s.flagI ∧ t.flagB = s.flagB ∧ t.flagV = s.flagV := by
    obtain rfl := step_eq_next_iff.mp h
    simp
  refine ⟨hkept, fun s t i b v h => ?_, fun ops => ?_⟩
  · obtain rfl := step_eq_next_iff.mp h
    exact (step_withFlags h s.flagC s.flagZ i s.flagD b v s.flagN).trans (by simp [State.withFlags])
  · obtain ⟨t, ht⟩ := session_completes ops State.reset
    refine ⟨t, ht, sessionWith_keeps (P := fun s => s.flagI = false ∧ s.flagB = false ∧ s.flagV = false) ?_ ?_ ?_
      ⟨rfl, rfl, rfl⟩ ht⟩
    · intro s t hs h
      obtain ⟨hI, hB, hV⟩ := hkept s t h
      rwa [hI, hB, hV]
    · intro s pairs hs
      simpa using hs
    · exact fun _ _ _ => ⟨rfl, rfl, rfl⟩

/-- Settles O20: an effect sets Carry or DecimalMode only where the instruction is SEC or SED, and clears neither. -/
theorem carryAndDecimalOnlySet : Obligations.CarryAndDecimalOnlySet := by
  have hset (s t : State) (h : step s = .next t) : t.flagC = (s.flagC || decide (s.instrAt = some .sec)) ∧
      t.flagD = (s.flagD || decide (s.instrAt = some .sed)) := by
    obtain rfl := step_eq_next_iff.mp h
    simp [State.effect_carryAfter, State.effect_decimalAfter]
  refine ⟨hset, fun s t c d h => ?_, fun ops s t hreset h => ?_, rfl, rfl⟩
  · obtain rfl := step_eq_next_iff.mp h
    exact (step_withFlags h c s.flagZ s.flagI d s.flagB s.flagV s.flagN).trans
      (by simp [State.withFlags, State.effect_carryAfter, State.effect_decimalAfter])
  · refine sessionWith_keeps (P := fun u => (s.flagC = true → u.flagC = true) ∧ (s.flagD = true → u.flagD = true)) ?_ ?_
      (fun hmem => absurd hmem hreset) ⟨id, id⟩ h
    · intro u w hu hstep
      obtain ⟨hC, hD⟩ := hset u w hstep
      exact ⟨fun hs => by simp [hC, hu.1 hs], fun hs => by simp [hD, hu.2 hs]⟩
    · intro u pairs hu
      simpa using hu

/-- Bit 7 of a byte is 1 exactly if the byte is 0x80 or more. -/
theorem getElem_seven_eq_decide (v : Byte) : v[7] = decide (0x80 ≤ v.toNat) :=
  (BitVec.msb_eq_getLsbD_last v).symm.trans (BitVec.msb_eq_decide v)

/-- After a load effect the register holds the byte. -/
@[simp] theorem Effect.apply_load_readReg (s : State) (r : Reg) (v : Byte) (len : Nat) :
    ((Effect.load r v len).apply s).readReg r = v := by
  simp [Effect.apply]

/-- Settles O21: a load effect gives Zero and Negative from the byte its register takes; every other effect leaves them. -/
theorem zeroAndNegativeFollowTheResult : Obligations.ZeroAndNegativeFollowTheResult := by
  refine ⟨fun i r s t hdest h => ?_, fun i s t hdest h => ?_, fun s t hnone h => ?_, fun s t z n h => ?_, rfl, rfl⟩
  · obtain ⟨v, heff⟩ := effectOf_of_destOf_eq_some hdest s
    rw [exec_eq_next_iff, heff] at h
    subst h
    simp [Effect.zeroAfter, Effect.negativeAfter, getElem_seven_eq_decide, beq_eq_decide]
  · obtain rfl := exec_eq_next_iff.mp h
    simpa using effectOf_zeroAfter_negativeAfter hdest s s.flagZ s.flagN
  · rw [step_of_instrAt_eq_none hnone] at h
    cases h
    exact ⟨rfl, rfl⟩
  · obtain rfl := step_eq_next_iff.mp h
    exact ⟨_, step_withFlags h s.flagC z s.flagI s.flagD s.flagB s.flagV n,
      by simpa [State.withFlags] using (s.effect.apply_eq_withFlags s).symm⟩

/-- Settles O22: flag by flag from the effect of the instruction; and under other flags the effect is the same, so that the two next
states agree once their flags are masked. -/
theorem flagIsolation : Obligations.FlagIsolation := by
  refine ⟨fun i s t h => ?_, resolve_snd, fun i s t hjmp h => ?_, fun s t hnone h => ?_, fun s t c z i d b v n h => ?_⟩
  · obtain rfl := exec_eq_next_iff.mp h
    refine ⟨fun hne => ?_, fun hne => ?_, fun hdest => ?_, Effect.apply_flagI .., Effect.apply_flagB .., Effect.apply_flagV ..⟩
    · simp [effectOf_carryAfter, mt mnemonic_eq_sec_iff.mpr hne]
    · simp [effectOf_decimalAfter, mt mnemonic_eq_sed_iff.mpr hne]
    · simpa using effectOf_zeroAfter_negativeAfter hdest s s.flagZ s.flagN
  · obtain ⟨a, heff⟩ := effectOf_of_mnemonic_eq_jmp hjmp s
    rw [exec_eq_next_iff, heff, Effect.apply, State.jumpTo_frame] at h
    subst h
    rfl
  · rw [step_of_instrAt_eq_none hnone] at h
    cases h
    rfl
  · exact ⟨_, step_withFlags h c z i d b v n, rfl⟩

/-- Settles O14: every field of `State.hostReset` is the reset value, and its memory is the empty one. -/
theorem resetSetsEveryPieceOfState : Obligations.ResetSetsEveryPieceOfState :=
  ⟨fun _ => rfl, fun _ => Memory.read_init, fun _ => rfl, rfl, Memory.read_init⟩

end Sys2Proof.Machine

/-! ## Memory: what a list of writes leaves, and what an instruction leaves -/

namespace Sys2Proof.Machine

/-! ### Reads after writes -/

/-- R41, R42, R44: a read after a write, at any two addresses and for any memory. -/
theorem Memory.read_write (m : Memory) (a b : Nat) (v : Byte) :
    (m.write a v).read b = if b % 65536 = a % 65536 then v else m.read b := by
  split
  · exact Memory.read_write_same m v ‹_›
  · exact Memory.read_write_ne m v ‹_›

/-- After a list of writes to any memory, a read gives the last write to its address, and what the memory held if there was none. -/
theorem Memory.read_foldl_write (m : Memory) (writes : List (Nat × Byte)) (a : Nat) :
    (writes.foldl (fun m w => m.write w.1 w.2) m).read a =
      (((writes.filter (fun w => w.1 % 65536 == a % 65536)).getLast?).map Prod.snd).getD (m.read a) := by
  induction writes using List.reverseRecOn with
  | nil => rfl
  | append_singleton ws w ih =>
    rw [List.foldl_concat, Memory.read_write, ih]
    by_cases h : w.1 % 65536 = a % 65536
    · simp [h]
    · simp [h, Ne.symm h]

theorem State.hostRead_hostWrite (s : State) (addr a : Nat) (v : Byte) :
    (s.hostWrite addr v).hostRead a = if a % 65536 = addr % 65536 then v else s.hostRead a :=
  s.mem.read_write addr a v

/-! ### No instruction writes -/

@[simp] theorem State.jumpTo_mem (s : State) (t : Word) : (s.jumpTo t).mem = s.mem := by
  rw [State.jumpTo_frame]

/-- No effect writes memory: a load writes a register, a jump PC or a report, the others a flag or PC. -/
@[simp] theorem Effect.apply_mem (e : Effect) (s : State) : (e.apply s).mem = s.mem := by
  cases e with
  | load r v len => simp [Effect.apply]
  | jump t => simp [Effect.apply]
  | setCarry => rfl
  | setDecimal => rfl
  | unrecognized op => rfl

/-- No instruction writes memory (R44). -/
theorem exec_mem {i : Instr} {s t : State} (h : exec i s = .next t) : t.mem = s.mem := by
  obtain rfl := exec_eq_next_iff.mp h
  exact Effect.apply_mem _ s

/-! ### The memory family of obligations -/

/-- Settles O10: what a list of writes leaves of any memory, at initialised memory, which reads 0x00. -/
theorem readGivesLatestWrite : Obligations.ReadGivesLatestWrite := by
  intro writes a
  rw [Memory.read_foldl_write, Memory.read_init]

/-- Settles O11: a write is read at its own address alone and touches the memory field alone, and no effect touches it. -/
theorem writeChangesOneByte : Obligations.WriteChangesOneByte := by
  refine ⟨State.hostRead_hostWrite, fun _ _ _ => rfl, fun s addr v w => ?_, fun i s t h a => ?_⟩
  · exact Memory.read_write_same _ w rfl
  · exact congrArg (Memory.read · a) (exec_mem h)

end Sys2Proof.Machine

/-! ## The table: its rows looked up, and a step under any table -/

namespace Sys2Proof.Machine

/-! ### Rows and the step -/

/-- No opcode of the chosen table has two rows (R66): a row is found by its own opcode. -/
theorem lookupRow_decodeTable_of_mem : ∀ r ∈ decodeTable, lookupRow decodeTable r.opcode = some r := by decide

/-- Under any table a byte with no row is consumed and reported (R68). -/
theorem stepWith_of_lookupRow_eq_none {table : List TableRow} {s : State}
    (h : lookupRow table (s.memRead s.pc) = none) : stepWith table s = .next (s.consumeUnrecognized (s.memRead s.pc)) := by
  simp [stepWith, h]

/-- Under any table a row of Immediate mode runs the instruction its pair and the byte after the opcode stand for. -/
theorem stepWith_of_immediate_row {table : List TableRow} {s : State} {op : Byte} {mn : Mnemonic} {i : Instr}
    (hrow : lookupRow table (s.memRead s.pc) = some ⟨op, mn, .immediate⟩)
    (hinstr : Listing.toInstr ⟨mn, .immediate, [s.memRead (s.pc + 1#16)]⟩ = some i) : stepWith table s = exec i s := by
  apply stepWith_of_decodeInstrWith
  rw [decodeInstrWith_bytesAt, hrow]
  exact hinstr

/-! ### The encoding family of obligations -/

/-- Settles O8: the chosen table's rows are found by their opcodes; under any table a step at 0xA9 or 0xA2 runs what the Immediate row
stands for, and at 0xFF it consumes a byte with no row. -/
theorem sourceFixedRowsDecideTheStep : Obligations.SourceFixedRowsDecideTheStep := by
  refine ⟨lookupRow_decodeTable_of_mem ⟨0xA9#8, .lda, .immediate⟩ (by decide),
    lookupRow_decodeTable_of_mem ⟨0xA2#8, .ldx, .immediate⟩ (by decide), by decide, fun p hp => ?_,
    fun table s hlda hldx hnone => ⟨fun hop => ?_, fun hop => ?_, fun hop => ?_⟩⟩
  · have hpairs : ∀ p ∈ [(Mnemonic.ldy, Mode.immediate), (.jmp, .absolute), (.jmp, .indirect), (.sec, .implied),
        (.sed, .implied), (.and, .immediate)], ∃ r ∈ decodeTable, r = ⟨r.opcode, p.1, p.2⟩ := by decide
    obtain ⟨r, hmem, hr⟩ := hpairs p hp
    exact ⟨r.opcode, (lookupRow_decodeTable_of_mem r hmem).trans (congrArg some hr)⟩
  · exact stepWith_of_immediate_row (hop ▸ hlda) rfl
  · exact stepWith_of_immediate_row (hop ▸ hldx) rfl
  · rw [stepWith_of_lookupRow_eq_none (hop ▸ hnone)]
    exact ⟨_, _, rfl, State.consumeUnrecognized_eq ..⟩

end Sys2Proof.Machine

/-! ## Fetch and the addressing modes: what a fetch leaves, and what a mode's address depends on -/

namespace Sys2Proof.Machine

/-! ### Fetching -/

/-- `n` fetches advance PC by `n` and do nothing else. -/
theorem fetch_state_iterate (n : Nat) (s : State) : (fun t => (fetch t).2)^[n] s = s.advance n := by
  induction n generalizing s with
  | zero => exact s.advance_zero.symm
  | succ n ih => rw [Function.iterate_succ_apply, ih, fetch_state, State.advance_advance, Nat.add_comm]

/-- Two fetches take the little-endian word at PC (R87). -/
@[simp] theorem fetch16_word (s : State) : (fetch16 s).1 = s.memRead16 s.pc := rfl
@[simp] theorem fetch16_state (s : State) : (fetch16 s).2 = s.advance 2 := s.advance_advance 1 1

/-! ### The address of a mode -/

theorem memRead_eq_of_bytesAt_one_eq {s t : State} {a b : Word} (h : s.bytesAt a 1 = t.bytesAt b 1) :
    s.memRead a = t.memRead b :=
  List.head_eq_of_cons_eq h

theorem memRead16_eq_of_bytesAt_two_eq {s t : State} {a b : Word} (h : s.bytesAt a 2 = t.bytesAt b 2) :
    s.memRead16 a = t.memRead16 b := by
  obtain ⟨hlo, htail⟩ := List.cons.inj h
  rw [State.memRead16, State.memRead16, hlo, memRead_eq_of_bytesAt_one_eq htail]

/-- R92: a mode's address is decided by PC, its operand bytes, the index register its rule names and, for Indirect, the word pointed
to. -/
theorem resolve_fst_congr {m : Mode} {s t : State} (hpc : s.pc = t.pc)
    (hbytes : s.bytesAt s.pc m.operandBytes = t.bytesAt t.pc m.operandBytes)
    (hx : m = .zeroPageX ∨ m = .absoluteX → s.regX = t.regX) (hy : m = .zeroPageY ∨ m = .absoluteY → s.regY = t.regY)
    (hptr : m = .indirect → s.memRead16 (s.memRead16 s.pc) = t.memRead16 (t.memRead16 t.pc)) :
    (resolve m s).1 = (resolve m t).1 := by
  cases m with
  | implied => rfl
  | immediate => exact congrArg some hpc
  | zeroPage => simp [resolve, memRead_eq_of_bytesAt_one_eq hbytes]
  | zeroPageX => simp [resolve, zeroPageXAddr, memRead_eq_of_bytesAt_one_eq hbytes, hx]
  | zeroPageY => simp [resolve, zeroPageYAddr, memRead_eq_of_bytesAt_one_eq hbytes, hy]
  | absolute => simp [resolve, memRead16_eq_of_bytesAt_two_eq hbytes]
  | absoluteX => simp [resolve, absoluteXAddr, memRead16_eq_of_bytesAt_two_eq hbytes, hx]
  | absoluteY => simp [resolve, absoluteYAddr, memRead16_eq_of_bytesAt_two_eq hbytes, hy]
  | indirect => exact congrArg some (hptr rfl)
  | relative =>
    have hoffset := memRead_eq_of_bytesAt_one_eq hbytes
    rw [hpc] at hoffset
    simp [resolve, relativeAddr, hpc, hoffset]

/-! ### The addressing-mode family of obligations -/

/-- Settles O28: a mode advances PC alone, Implied alone returns no address, and what a mode reads decides its address. -/
theorem modesReadOnlyWhatTheyName : Obligations.ModesReadOnlyWhatTheyName := by
  refine ⟨fun m s => ?_, fun m s hm => ?_, fun m s t => resolve_fst_congr⟩
  · rw [resolve_snd]
    rfl
  · exact Option.ne_none_iff_exists'.mp (mt resolve_fst_eq_none.mp hm)

/-- Settles O25: a fetch is the read at PC and an advance by 1, and a mode and its fetches both advance PC by the operand bytes. -/
theorem fetchReadsAndAdvances : Obligations.FetchReadsAndAdvances := by
  refine ⟨fun _ => rfl, fun s hpc => ⟨?_, ?_⟩, fun m s => ?_⟩
  · rw [fetch_byte, hpc]
    rfl
  · rw [fetch_state, State.advance_pc, hpc]
    rfl
  · rw [resolve_snd, fetch_state_iterate]

end Sys2Proof.Machine

/-! ## The loads: the byte at the resolved address, and the flags it leaves -/

namespace Sys2Proof.Machine

/-! ### The instruction at PC, from its row and its operand bytes -/

/-- A listing stands for an instruction of its own mnemonic and mode. -/
theorem toInstr_mnemonic_mode {l : Listing} {i : Instr} (h : l.toInstr = some i) :
    l.mnemonic = i.mnemonic ∧ l.mode = i.mode := by
  obtain ⟨mn, m, ops⟩ := l
  -- `split` is too costly on this match; the pair and the number of operand bytes decide its row.
  cases mn <;> cases m <;> rcases ops with _ | ⟨lo, _ | ⟨hi, _ | ⟨b, rest⟩⟩⟩ <;> cases h <;> exact ⟨rfl, rfl⟩

/-- The instruction at PC is what its own mnemonic and mode stand for with the operand bytes after the opcode (R60, R65). -/
theorem State.toInstr_of_instrAt {s : State} {i : Instr} (h : s.instrAt = some i) :
    Listing.toInstr ⟨i.mnemonic, i.mode, s.bytesAt (s.pc + 1#16) i.mode.operandBytes⟩ = some i := by
  rw [State.instrAt, decodeInstrWith_bytesAt, Option.bind_eq_some_iff] at h
  obtain ⟨row, -, hinstr⟩ := h
  obtain ⟨hmnemonic, hmode⟩ := toInstr_mnemonic_mode hinstr
  rwa [← hmnemonic, ← hmode]

/-- A step at the opcode of a row of the chosen table runs what the row and its operand bytes stand for. -/
theorem step_of_row {s : State} {row : TableRow} {i : Instr} (hrow : row ∈ decodeTable) (hop : s.memRead s.pc = row.opcode)
    (hinstr : Listing.toInstr ⟨row.mnemonic, row.mode, s.bytesAt (s.pc + 1#16) row.mode.operandBytes⟩ = some i) :
    step s = exec i s := by
  apply step_of_instrAt_eq_some
  rw [State.instrAt, decodeInstrWith_bytesAt, hop, lookupRow_decodeTable_of_mem row hrow]
  exact hinstr

/-- `LDA #$nn` at its bytes (R101). -/
theorem step_ldaImm {s : State} {nn : Byte} (hop : s.memRead s.pc = 0xA9#8) (hnn : s.memRead (s.pc + 1#16) = nn) :
    step s = exec (.ldaImm nn) s :=
  step_of_row (row := ⟨0xA9#8, .lda, .immediate⟩) (by decide) hop (hnn ▸ rfl)

/-- `LDX #$nn` at its bytes (R107). -/
theorem step_ldxImm {s : State} {nn : Byte} (hop : s.memRead s.pc = 0xA2#8) (hnn : s.memRead (s.pc + 1#16) = nn) :
    step s = exec (.ldxImm nn) s :=
  step_of_row (row := ⟨0xA2#8, .ldx, .immediate⟩) (by decide) hop (hnn ▸ rfl)

/-! ### What a load takes -/

/-- R117: a load at PC takes, untransformed, the byte at the address its mode resolves to. -/
theorem effectOf_load_resolve {s : State} {i : Instr} {r : Reg} (hat : s.instrAt = some i) (hand : i.mnemonic ≠ .and)
    (hdest : destOf i.mnemonic = some r) : ∃ ea, (resolve i.mode (s.advance 1)).1 = some ea ∧
      effectOf i s = .load r (s.memRead ea) (encode i).length := by
  have hinstr := State.toInstr_of_instrAt hat
  cases i with
  | andImm nn => exact absurd rfl hand
  | _ => cases hdest <;> cases hinstr <;> exact ⟨_, rfl, rfl⟩

/-! ### Zero and Negative -/

/-- Bit 7 of a byte is 1 exactly if masking with 0x80 leaves something. -/
theorem getLsbD_seven_eq_decide_and (b : Byte) : b.getLsbD 7 = decide (b &&& 0x80#8 ≠ 0x00#8) := by
  rw [show 0x80#8 = BitVec.twoPow 8 7 from rfl, BitVec.and_twoPow]
  cases b.getLsbD 7 <;> decide

/-- `SetZN` in terms of the number a byte stands for. -/
theorem State.setZN_eq_toNat (s : State) (v : Byte) :
    s.setZN v = { s with flagZ := decide (v.toNat = 0), flagN := decide (0x80 ≤ v.toNat) } := by
  simp [State.setZN, beq_eq_decide, BitVec.toNat_eq, getElem_seven_eq_decide]

/-- A load effect leaves the flags `SetZN` of its register gives: giving them once more changes nothing. -/
theorem Effect.apply_load_setZN (s : State) (r : Reg) (v : Byte) (len : Nat) :
    ((Effect.load r v len).apply s).setZN v = (Effect.load r v len).apply s := rfl

/-! ### A program of two bytes at the reset PC -/

/-- Two bytes loaded right after reset stand at PC, 0xFFFC, and after it. -/
theorem reset_hostLoad_memRead (op b : Byte) :
    (State.reset.hostLoad [(0xFFFC#16, op), (0xFFFD#16, b)]).memRead 0xFFFC#16 = op ∧
      (State.reset.hostLoad [(0xFFFC#16, op), (0xFFFD#16, b)]).memRead 0xFFFD#16 = b := by
  have hne : (0xFFFC#16 : Word).toNat % 65536 ≠ (0xFFFD#16 : Word).toNat % 65536 := by decide
  constructor
  · exact (Memory.read_write_ne _ b hne).trans (Memory.read_write_same _ op rfl)
  · exact Memory.read_write_same _ b rfl

/-! ### The loads family of obligations -/

/-- Settles O24: the load effect of the instruction at PC takes the byte at the resolved address, and its flags follow the register. -/
theorem loadClassProperty : Obligations.LoadClassProperty := by
  intro s i r hat hand hdest
  obtain ⟨ea, hea, heff⟩ := effectOf_load_resolve hat hand hdest
  refine ⟨ea, _, hea, (step_of_instrAt_eq_some hat).trans (exec_eq i s), ?_⟩
  rw [heff]
  simp [Effect.zeroAfter, Effect.negativeAfter]

/-- Settles O29: both are a load of the literal; at their bytes, and so right after reset with the bytes loaded, a step is that load. -/
theorem ldaLdxImmediate : Obligations.LdaLdxImmediate := by
  refine ⟨fun _ _ => rfl, fun _ _ => rfl, fun _ _ => step_ldaImm, fun _ _ => step_ldxImm, fun b => ?_, fun b => ?_⟩
  · obtain ⟨hop, hb⟩ := reset_hostLoad_memRead 0xA9#8 b
    rw [← getLsbD_seven_eq_decide_and]
    exact ⟨_, step_ldaImm hop hb, rfl⟩
  · obtain ⟨hop, hb⟩ := reset_hostLoad_memRead 0xA2#8 b
    rw [← getLsbD_seven_eq_decide_and]
    exact ⟨_, step_ldxImm hop hb, rfl⟩

/-- Settles O23: `SetZN` by the byte's number, which is not both 0 and 0x80 or more; and a load effect ends in it. -/
theorem setZNWritesBothFlags : Obligations.SetZNWritesBothFlags := by
  refine ⟨fun s v => ⟨s.setZN_eq_toNat v, ?_⟩, fun i r s t hdest h => ?_⟩
  · rw [State.setZN_eq_toNat]
    simp only [decide_eq_true_eq]
    omega
  · obtain ⟨v, heff⟩ := effectOf_of_destOf_eq_some hdest s
    rw [exec_eq_next_iff, heff] at h
    subst h
    rw [Effect.apply_load_readReg, Effect.apply_load_setZN]

end Sys2Proof.Machine

/-! ## Jumps: the target check -/

namespace Sys2Proof.Machine

/-! ### The two reserved regions, as a check and as a set of addresses -/

/-- R120's check against R49's regions: nothing else is restricted. -/
theorem jumpTargetValid_eq_true_iff (t : Word) : jumpTargetValid t = true ↔ ¬Reserved t := by
  simp only [jumpTargetValid, Reserved, Bool.and_eq_true, Bool.not_eq_true', Bool.and_eq_false_iff, decide_eq_false_iff_not]
  omega

/-- The rejected addresses, as numbers below 65536, are two intervals. -/
theorem lt_and_jumpTargetValid_ofNat_eq_false_iff (k : Nat) :
    k < 65536 ∧ jumpTargetValid (BitVec.ofNat 16 k) = false ↔ k ∈ Finset.Ico 0x0100 0x0200 ∪ Finset.Ico 0xFFFA 0x10000 := by
  simp only [← Bool.not_eq_true, jumpTargetValid_eq_true_iff, not_not, Reserved, BitVec.toNat_ofNat, Finset.mem_union, Finset.mem_Ico]
  omega

/-- The rejected addresses counted: 256 of the stack page and 6 of the vector area, which do not overlap. -/
theorem countP_not_jumpTargetValid : (List.range 65536).countP (fun k => !jumpTargetValid (BitVec.ofNat 16 k)) = 262 := by
  have hset : (Finset.range 65536).filter (fun k => jumpTargetValid (BitVec.ofNat 16 k) = false) =
      Finset.Ico 0x0100 0x0200 ∪ Finset.Ico 0xFFFA 0x10000 := by
    ext k
    rw [Finset.mem_filter, Finset.mem_range, lt_and_jumpTargetValid_ofNat_eq_false_iff]
  have hdisj : Disjoint (Finset.Ico 0x0100 0x0200) (Finset.Ico 0xFFFA 0x10000) :=
    Finset.disjoint_left.mpr fun k hstack hvec => by
      rw [Finset.mem_Ico] at hstack hvec
      omega
  calc (List.range 65536).countP (fun k => !jumpTargetValid (BitVec.ofNat 16 k))
      = Nat.count (fun k => jumpTargetValid (BitVec.ofNat 16 k) = false) 65536 := List.countP_congr fun k _ => by simp
    _ = (Finset.Ico 0x0100 0x0200 ∪ Finset.Ico 0xFFFA 0x10000).card := by rw [Nat.count_eq_card_filter_range, hset]
    _ = 262 := by rw [Finset.card_union_of_disjoint hdisj, Nat.card_Ico, Nat.card_Ico]

/-- The valid addresses are the rest of the 65536. -/
theorem countP_jumpTargetValid : (List.range 65536).countP (fun k => jumpTargetValid (BitVec.ofNat 16 k)) = 65274 := by
  have hsplit := List.length_eq_countP_add_countP (fun k => jumpTargetValid (BitVec.ofNat 16 k)) (l := List.range 65536)
  simp only [List.length_range, Bool.not_eq_true, Bool.decide_eq_false, countP_not_jumpTargetValid] at hsplit
  omega

/-! ### The jumps family of obligations -/

/-- Settles O36: the check is the two regions' complement; the boundary values are computed, one by one
(`decide` on the bounded `∀` itself would try every word), and the counts are the intervals' sizes. -/
theorem jumpTargetCheck : Obligations.JumpTargetCheck := by
  refine ⟨fun t => (jumpTargetValid_eq_true_iff t).trans not_or, ?_, ?_, countP_jumpTargetValid, countP_not_jumpTargetValid⟩
  · exact List.forall_iff_forall_mem.mp (by decide)
  · exact List.forall_iff_forall_mem.mp (by decide)

end Sys2Proof.Machine

/-! ## Encodings: bytes and words, listings and instructions, the decoder and its inverse -/

namespace Sys2Proof.Machine

/-! ### A word and its two bytes (R14) -/

theorem word16_toNat (hi lo : Byte) : (word16 hi lo).toNat = hi.toNat * 256 + lo.toNat := by
  rw [word16, BitVec.toNat_ofNat]
  omega

@[simp] theorem lowByte_word16 (hi lo : Byte) : lowByte (word16 hi lo) = lo := by
  apply BitVec.eq_of_toNat_eq
  rw [lowByte, word16_toNat, BitVec.toNat_ofNat]
  omega

@[simp] theorem highByte_word16 (hi lo : Byte) : highByte (word16 hi lo) = hi := by
  apply BitVec.eq_of_toNat_eq
  rw [highByte, word16_toNat, BitVec.toNat_ofNat]
  omega

@[simp] theorem word16_highByte_lowByte (w : Word) : word16 (highByte w) (lowByte w) = w := by
  apply BitVec.eq_of_toNat_eq
  rw [word16_toNat, highByte, lowByte, BitVec.toNat_ofNat, BitVec.toNat_ofNat]
  omega

/-! ### Listings and instructions -/

theorem encodedForm (i : Instr) : Laws.EncodedForm.Statement i := by cases i <;> exact ⟨rfl, rfl, rfl⟩

theorem encode_length (i : Instr) : (encode i).length = 1 + i.mode.operandBytes := (encodedForm i).2.2

theorem operands_length (i : Instr) : i.operands.length = i.mode.operandBytes := by
  have h := encode_length i
  rw [encode, List.length_cons] at h
  omega

/-- A listing stands for an instruction exactly if it is that instruction's own row and operand bytes (R65). -/
theorem toInstr_eq_some_iff {l : Listing} {i : Instr} :
    l.toInstr = some i ↔ l = ⟨i.mnemonic, i.mode, i.operands⟩ := by
  constructor
  · intro h
    obtain ⟨mn, m, ops⟩ := l
    obtain ⟨rfl, rfl⟩ := toInstr_mnemonic_mode h
    -- The number of operand bytes decides whether the row's own pattern is the one that matched.
    cases i <;> rcases ops with _ | ⟨lo, _ | ⟨hi, _ | ⟨b, rest⟩⟩⟩ <;> cases h <;> simp [Instr.operands]
  · rintro rfl
    cases i <;> simp [Listing.toInstr, Instr.mnemonic, Instr.mode, Instr.operands]

/-- The checks on a listing pass exactly where it stands for an instruction. -/
theorem wellFormed_eq_isSome_toInstr (l : Listing) : l.wellFormed = l.toInstr.isSome := by
  obtain ⟨mn, m, ops⟩ := l
  -- Both sides are fixed by the pair and the number of operand bytes.
  cases mn <;> cases m <;> rcases ops with _ | ⟨lo, _ | ⟨hi, _ | ⟨b, rest⟩⟩⟩ <;> rfl

/-! ### Looking a row up -/

theorem lookupRow_eq_none_iff {table : List TableRow} {op : Byte} :
    lookupRow table op = none ↔ op ∉ table.map TableRow.opcode := by
  simp [lookupRow, List.find?_eq_none]

theorem mem_of_lookupRow {table : List TableRow} {op : Byte} {r : TableRow} (h : lookupRow table op = some r) : r ∈ table :=
  List.mem_of_find?_eq_some h

theorem opcode_of_lookupRow {table : List TableRow} {op : Byte} {r : TableRow} (h : lookupRow table op = some r) :
    r.opcode = op :=
  beq_iff_eq.mp (List.find?_some (p := fun r : TableRow => r.opcode == op) h)

theorem lengthFor_of_no_row {table : List TableRow} {op : Byte} (h : lookupRow table op = none) : lengthFor table op = 1 := by
  rw [lengthFor, h]

theorem lengthFor_of_row {table : List TableRow} {op : Byte} {r : TableRow} (h : lookupRow table op = some r) :
    lengthFor table op = 1 + r.mode.operandBytes := by
  rw [lengthFor, h]

/-- Every instruction's row is in the chosen table (R66). -/
theorem row_mem_decodeTable (i : Instr) : (⟨i.opcode, i.mnemonic, i.mode⟩ : TableRow) ∈ decodeTable := by
  cases i <;> exact List.elem_iff.mp rfl

/-- No pair of the chosen table has two opcodes (R66). -/
theorem decodeTable_pair_unique : ∀ r ∈ decodeTable, ∀ q ∈ decodeTable,
    r.mnemonic = q.mnemonic → r.mode = q.mode → r = q := by
  decide

/-- In the chosen table an instruction's opcode, and no other byte, has a row of its mnemonic and mode. -/
theorem lookupRow_decodeTable_iff {op : Byte} {i : Instr} :
    (∃ r, lookupRow decodeTable op = some r ∧ r.mnemonic = i.mnemonic ∧ r.mode = i.mode) ↔ op = i.opcode := by
  constructor
  · rintro ⟨r, hrow, hmnemonic, hmode⟩
    have hr := decodeTable_pair_unique r (mem_of_lookupRow hrow) _ (row_mem_decodeTable i) hmnemonic hmode
    rw [← opcode_of_lookupRow hrow, hr]
  · rintro rfl
    exact ⟨_, lookupRow_decodeTable_of_mem _ (row_mem_decodeTable i), rfl, rfl⟩

/-! ### The decoder -/

/-- Cutting bytes after as many as a mode asks for gives an instruction's operands and what follows exactly if the bytes are the two
joined. -/
theorem take_drop_operands_iff {bytes rest : List Byte} {i : Instr} :
    (i.mode.operandBytes ≤ bytes.length ∧ bytes.take i.mode.operandBytes = i.operands ∧
      bytes.drop i.mode.operandBytes = rest) ↔ bytes = i.operands ++ rest := by
  rw [← operands_length]
  constructor
  · rintro ⟨-, htake, rfl⟩
    conv_lhs => rw [← List.take_append_drop i.operands.length bytes, htake]
  · rintro rfl
    simp

/-- Under any table a row decodes to what its pair and the operand bytes, if there are enough, stand for (R72). -/
theorem decodeWith_cons_of_row {table : List TableRow} {op : Byte} {r : TableRow} (hrow : lookupRow table op = some r)
    {bytes rest : List Byte} {i : Instr} : decodeWith table (op :: bytes) = .instr i rest ↔
      r.mode.operandBytes ≤ bytes.length ∧
        Listing.toInstr ⟨r.mnemonic, r.mode, bytes.take r.mode.operandBytes⟩ = some i ∧
        bytes.drop r.mode.operandBytes = rest := by
  rw [decodeWith, hrow]
  by_cases hlen : bytes.length < r.mode.operandBytes
  · simp [hlen, Nat.not_le.mpr hlen]
  · cases hinstr : Listing.toInstr ⟨r.mnemonic, r.mode, bytes.take r.mode.operandBytes⟩ with
    | some j => simp [hlen, hinstr, Nat.le_of_not_lt hlen]
    | none => cases hmeaning : r.hasMeaning <;> simp [hlen, hinstr, hmeaning]

/-- Under any table bytes decode to an instruction exactly if the first has a row of its mnemonic and mode and its operand bytes
follow (R64, R65). -/
theorem decodeWith_cons_eq_instr_iff {table : List TableRow} {op : Byte} {bytes rest : List Byte} {i : Instr} :
    decodeWith table (op :: bytes) = .instr i rest ↔
      (∃ r, lookupRow table op = some r ∧ r.mnemonic = i.mnemonic ∧ r.mode = i.mode) ∧ bytes = i.operands ++ rest := by
  cases hrow : lookupRow table op with
  | none => simp [decodeWith, hrow]
  | some r =>
    rw [decodeWith_cons_of_row hrow, toInstr_eq_some_iff, Listing.mk.injEq, ← take_drop_operands_iff]
    constructor
    · rintro ⟨hlen, ⟨hmnemonic, hmode, htake⟩, hdrop⟩
      rw [hmode] at hlen htake hdrop
      exact ⟨⟨r, rfl, hmnemonic, hmode⟩, hlen, htake, hdrop⟩
    · rintro ⟨⟨q, hq, hmnemonic, hmode⟩, hlen, htake, hdrop⟩
      obtain rfl := Option.some.inj hq
      rw [hmode]
      exact ⟨hlen, ⟨hmnemonic, rfl, htake⟩, hdrop⟩

/-- Bytes decode to an instruction exactly if they are its encoding and the bytes left (R60 to R63). -/
theorem decode_eq_instr_iff {bytes rest : List Byte} {i : Instr} : decode bytes = .instr i rest ↔ bytes = encode i ++ rest := by
  cases bytes with
  | nil => simp [decode, decodeWith, encode]
  | cons op bytes =>
    rw [decode, decodeWith_cons_eq_instr_iff, lookupRow_decodeTable_iff, encode, List.cons_append, List.cons.injEq]

theorem decodeInstrWith_eq_some_iff {table : List TableRow} {bytes : List Byte} {i : Instr} :
    decodeInstrWith table bytes = some i ↔ ∃ rest, decodeWith table bytes = .instr i rest := by
  rw [decodeInstrWith]
  cases decodeWith table bytes <;> simp

theorem State.bytesAt_add (s : State) (a : Word) (m n : Nat) :
    s.bytesAt a (m + n) = s.bytesAt a m ++ s.bytesAt (a + BitVec.ofNat 16 m) n := by
  induction m generalizing a with
  | zero => simp [State.bytesAt]
  | succ m ih =>
    rw [Nat.succ_add, State.bytesAt, ih, State.bytesAt, List.cons_append, BitVec.add_assoc, ← BitVec.ofNat_add, Nat.add_comm 1]

/-- An instruction stands at PC exactly if the bytes there, as many as it has, are its encoding. -/
theorem State.instrAt_eq_some_iff {s : State} {i : Instr} :
    s.instrAt = some i ↔ s.bytesAt s.pc (encode i).length = encode i := by
  have hle : (encode i).length ≤ 3 := by
    rw [encode_length]
    exact Nat.add_le_add_left (operandBytes_le_two i.mode) 1
  rw [State.instrAt, decodeInstrWith_eq_some_iff, ← s.bytesAt_take s.pc hle]
  refine Iff.trans (exists_congr fun rest => decode_eq_instr_iff) ?_
  constructor
  · rintro ⟨rest, h⟩
    rw [h, List.take_left]
  · intro h
    exact ⟨_, ((congrArg (· ++ _) h).symm.trans (List.take_append_drop ..)).symm⟩

/-! ### Placing bytes -/

theorem State.placeBytes_pc (s : State) (a : Word) (bs : List Byte) : (s.placeBytes a bs).pc = s.pc := by
  rw [State.placeBytes_frame]

/-- Placing bytes leaves an address that none of them goes to. -/
theorem State.placeBytes_memRead_ne (s : State) (a b : Word) (bs : List Byte)
    (h : ∀ k < bs.length, b ≠ a + BitVec.ofNat 16 k) : (s.placeBytes a bs).memRead b = s.memRead b := by
  induction bs generalizing s a with
  | nil => rfl
  | cons v rest ih =>
    have hhead : b ≠ a := by simpa using h 0 (Nat.zero_lt_succ _)
    rw [State.placeBytes, ih]
    · refine Memory.read_write_ne _ v fun hmod => hhead (BitVec.eq_of_toNat_eq ?_)
      omega
    · intro k hk
      have := h (k + 1) (Nat.succ_lt_succ hk)
      rwa [Nat.add_comm, BitVec.ofNat_add, ← BitVec.add_assoc] at this

/-- Bytes placed at consecutive addresses, no more than there are, stand there (R60). -/
theorem State.placeBytes_bytesAt (s : State) (a : Word) {bs : List Byte} (h : bs.length ≤ 65536) :
    (s.placeBytes a bs).bytesAt a bs.length = bs := by
  induction bs generalizing s a with
  | nil => rfl
  | cons v rest ih =>
    rw [List.length_cons] at h
    rw [State.placeBytes, List.length_cons, State.bytesAt, ih _ _ (Nat.le_of_succ_le h), State.placeBytes_memRead_ne]
    · exact congrArg (· :: rest) (Memory.read_write_same _ v rfl)
    · intro k hk hak
      have hzero : BitVec.ofNat 16 (1 + k) = 0#16 := by
        rw [BitVec.ofNat_add, ← BitVec.add_right_eq_self (x := a), ← BitVec.add_assoc]
        exact hak.symm
      have hmod : (1 + k) % 65536 = 0 := by simpa using congrArg BitVec.toNat hzero
      omega

theorem tableWordBytes_length (nbits w : Nat) : (tableWordBytes nbits w).length = 3 := rfl

/-! ### The encoding obligations -/

/-- Settles O2: an encoding and what follows meet the decoder's condition by definition. -/
theorem decodeOfEncodeIsIdentity : Obligations.DecodeOfEncodeIsIdentity :=
  fun i _ => ⟨(encodedForm i).1, decode_eq_instr_iff.mpr rfl⟩

/-- Settles O3, from the decoder's condition. -/
theorem decodedBytesAreTheEncoding : Obligations.DecodedBytesAreTheEncoding :=
  fun _ _ _ => decode_eq_instr_iff.mp

/-- Settles O7: the checks pass where the listing stands for an instruction, and it is that instruction's own listing. -/
theorem wellFormedListingsAreInstructions : Obligations.WellFormedListingsAreInstructions :=
  ⟨fun l => by rw [wellFormed_eq_isSome_toInstr, Option.isSome_iff_exists], fun _ _ => toInstr_eq_some_iff⟩

/-- Settles O9: the placed bytes are the ones at PC, and only memory was written. -/
theorem placedInstructionIsFetched : Obligations.PlacedInstructionIsFetched := by
  intro s nbits w i hword t
  have hat : t.instrAt = some i := by
    have hbytes : t.bytesAt t.pc 3 = tableWordBytes nbits w := by
      rw [show t.pc = s.pc from s.placeBytes_pc s.pc _]
      exact s.placeBytes_bytesAt s.pc (bs := tableWordBytes nbits w) (by rw [tableWordBytes_length]; decide)
    rw [State.instrAt, hbytes]
    exact hword
  exact ⟨hat, step_of_instrAt_eq_some hat, s.placeBytes_frame s.pc _⟩

/-! ### Bytes without a row -/

theorem knownOpcodes_eq : knownOpcodes = decodeTable.map TableRow.opcode := rfl

theorem lookupRow_decodeTable_eq_none_iff {op : Byte} : lookupRow decodeTable op = none ↔ op ∉ knownOpcodes := by
  rw [knownOpcodes_eq, lookupRow_eq_none_iff]

theorem decodeWith_cons_of_no_row {table : List TableRow} {op : Byte} (h : lookupRow table op = none) (rest : List Byte) :
    decodeWith table (op :: rest) = .rejected (.unrecognizedOpcode op) := by
  rw [decodeWith, h]

/-- The bytes with a row, as numbers below 256. -/
theorem filter_ofNat_mem_knownOpcodes :
    (Finset.range 256).filter (fun k => BitVec.ofNat 8 k ∈ knownOpcodes) = (knownOpcodes.map BitVec.toNat).toFinset := by
  ext k
  rw [Finset.mem_filter, Finset.mem_range, List.mem_toFinset, List.mem_map]
  constructor
  · rintro ⟨hk, hmem⟩
    exact ⟨_, hmem, (BitVec.toNat_ofNat k 8).trans (Nat.mod_eq_of_lt hk)⟩
  · rintro ⟨op, hmem, rfl⟩
    exact ⟨op.isLt, by rwa [BitVec.ofNat_toNat, BitVec.setWidth_eq]⟩

/-- 21 of the 256 bytes have a row, so 235 do not. -/
theorem length_filter_not_mem_knownOpcodes :
    ((List.range 256).filter (fun k => BitVec.ofNat 8 k ∉ knownOpcodes)).length = 235 := by
  have hknown : (List.range 256).countP (fun k => BitVec.ofNat 8 k ∈ knownOpcodes) = 21 :=
    calc (List.range 256).countP (fun k => BitVec.ofNat 8 k ∈ knownOpcodes)
        = (knownOpcodes.map BitVec.toNat).toFinset.card := by
          rw [← filter_ofNat_mem_knownOpcodes, ← Nat.count_eq_card_filter_range]
          rfl
      _ = 21 := by
          rw [List.toFinset_card_of_nodup (List.Nodup.map BitVec.toNat_injective (by decide)), List.length_map]
          rfl
  have hsplit := List.length_eq_countP_add_countP (fun k => decide (BitVec.ofNat 8 k ∈ knownOpcodes)) (l := List.range 256)
  simp only [List.length_range, hknown, decide_eq_true_eq] at hsplit
  rw [← List.countP_eq_length_filter]
  omega

/-- Settles O5: a byte outside the opcode column has no row, and so is rejected by the decoder and consumed by the step. -/
theorem unrecognizedOpcodeConsumesOneByte : Obligations.UnrecognizedOpcodeConsumesOneByte := by
  refine ⟨fun op rest hop => ?_, fun s hop => ?_, fun op hop => ?_, length_filter_not_mem_knownOpcodes⟩
  · exact decodeWith_cons_of_no_row (lookupRow_decodeTable_eq_none_iff.mpr hop) rest
  · exact stepWith_of_lookupRow_eq_none (lookupRow_decodeTable_eq_none_iff.mpr hop)
  · exact Option.ne_none_iff_exists'.mp fun hnone => lookupRow_decodeTable_eq_none_iff.mp hnone hop

end Sys2Proof.Machine

/-! ## The step under any table: the mnemonic's rule at the resolved address -/

namespace Sys2Proof.Machine

/-! ### A row's rule, where its mode returns an address -/

/-- Past the opcode byte, a mode consumes its operand bytes: PC is past the whole instruction. -/
theorem resolve_advance_one_snd (m : Mode) (s : State) :
    (resolve m (s.advance 1)).2 = s.advance (1 + m.operandBytes) := by
  rw [resolve_snd, State.advance_advance]

/-- An instruction whose operands stand after the opcode does what its row's rule does at the resolved address (R101 to R135). -/
theorem execForm_of_toInstr {s : State} {mn : Mnemonic} {m : Mode} {i : Instr}
    (h : Listing.toInstr ⟨mn, m, s.bytesAt (s.pc + 1#16) m.operandBytes⟩ = some i) :
    execForm mn m (s.advance 1) = some ((effectOf i s).apply s) := by
  obtain ⟨rfl, rfl⟩ := toInstr_mnemonic_mode h
  cases i <;> cases h <;> simp only [execForm, resolve_advance_one_snd] <;> rfl

/-- What a row's rule can do once its mode has consumed the operand: load a register (AND loads Acc), jump, or set a flag. -/
theorem execForm_cases {mn : Mnemonic} {m : Mode} {s t : State} (h : execForm mn m s = some t) :
    (∃ r v, t = (resolve m s).2.loadByte r v) ∨ (∃ a, t = (resolve m s).2.jumpTo a) ∨
      t = (resolve m s).2.setCarry ∨ t = (resolve m s).2.setDecimal := by
  cases mn with
  | sec => cases h; exact .inr (.inr (.inl rfl))
  | sed => cases h; exact .inr (.inr (.inr rfl))
  | lda | ldx | ldy | and =>
    cases haddr : (resolve m s).1 with
    | none => simp [execForm, haddr] at h
    | some ea =>
      simp only [execForm, haddr, Option.some.injEq] at h
      exact .inl ⟨_, _, h.symm⟩
  | jmp =>
    cases haddr : (resolve m s).1 with
    | none => simp [execForm, haddr] at h
    | some ea =>
      simp only [execForm, haddr, Option.some.injEq] at h
      exact .inr (.inl ⟨ea, h.symm⟩)

/-- Under any table the step is the pseudocode's; where that has no next state the step stops by name (R140; log 2). -/
theorem stepWith_eq (table : List TableRow) (s : State) :
    stepWith table s = (streamStepWith table s).elim (.refused (.noSuchForm (s.memRead s.pc))) .next := by
  rw [stepWith, streamStepWith, fetch_byte, fetch_state]
  cases lookupRow table (s.memRead s.pc) with
  | none => rfl
  | some r =>
    cases hinstr : Listing.toInstr ⟨r.mnemonic, r.mode, s.bytesAt (s.pc + 1#16) r.mode.operandBytes⟩ with
    | some i => simp [hinstr, exec_eq, execForm_of_toInstr hinstr]
    | none => cases hform : execForm r.mnemonic r.mode (s.advance 1) <;> simp [hinstr, hform]

theorem stepWith_eq_next_iff {table : List TableRow} {s t : State} :
    stepWith table s = .next t ↔ streamStepWith table s = some t := by
  rw [stepWith_eq]
  cases streamStepWith table s <;> simp

theorem streamStepWith_of_no_row {table : List TableRow} {s : State} (h : lookupRow table (s.memRead s.pc) = none) :
    streamStepWith table s = some (s.consumeUnrecognized (s.memRead s.pc)) := by
  rw [streamStepWith, fetch_byte, h]
  rfl

theorem streamStepWith_of_row {table : List TableRow} {s : State} {r : TableRow}
    (h : lookupRow table (s.memRead s.pc) = some r) :
    streamStepWith table s = execForm r.mnemonic r.mode (s.advance 1) := by
  rw [streamStepWith, fetch_byte, h]
  rfl

/-! ### What a step under any table keeps -/

section
variable {s : State} (h : s.Inv)
include h

theorem State.Inv.advance (n : Nat) : (s.advance n).Inv := h

theorem State.Inv.setCarry : s.setCarry.Inv := h

theorem State.Inv.setDecimal : s.setDecimal.Inv := h

theorem State.Inv.jumpTo (t : Word) : (s.jumpTo t).Inv := by
  rw [State.jumpTo_frame]
  exact h

/-- `SetZN` never leaves Zero and Negative both 1: bit 7 of 0x00 is 0. -/
theorem State.Inv.loadByte (r : Reg) (v : Byte) : (s.loadByte r v).Inv := by
  obtain ⟨hmem, hsp, hI, hB, hV, -⟩ := h
  have hflags : ¬((v == 0x00#8) = true ∧ v.getLsbD 7 = true) := by
    rintro ⟨hzero, hneg⟩
    rw [beq_iff_eq.mp hzero] at hneg
    cases hneg
  simpa [State.Inv, State.loadByte, hmem, hsp, hI, hB, hV] using hflags

theorem State.Inv.consumeUnrecognized (op : Byte) : (s.consumeUnrecognized op).Inv := h

theorem State.Inv.hostLoad (pairs : List (Word × Byte)) : (s.hostLoad pairs).Inv := by
  obtain ⟨hmem, hrest⟩ := h
  rw [State.hostLoad_frame]
  exact ⟨State.hostLoad_wf hmem pairs, hrest⟩

theorem State.Inv.resolve_snd (m : Mode) : (resolve m s).2.Inv := by
  rw [Machine.resolve_snd]
  exact h.advance _

theorem State.Inv.execForm {mn : Mnemonic} {m : Mode} {t : State} (ht : execForm mn m s = some t) : t.Inv := by
  obtain ⟨r, v, rfl⟩ | ⟨a, rfl⟩ | rfl | rfl := execForm_cases ht
  · exact (h.resolve_snd m).loadByte r v
  · exact (h.resolve_snd m).jumpTo a
  · exact (h.resolve_snd m).setCarry
  · exact (h.resolve_snd m).setDecimal

theorem State.Inv.stepWith {table : List TableRow} {t : State} (ht : stepWith table s = .next t) : t.Inv := by
  rw [stepWith_eq_next_iff] at ht
  cases hrow : lookupRow table (s.memRead s.pc) with
  | none =>
    rw [streamStepWith_of_no_row hrow] at ht
    cases ht
    exact h.consumeUnrecognized _
  | some r =>
    rw [streamStepWith_of_row hrow] at ht
    exact (h.advance 1).execForm ht

end

theorem State.hostReset_inv (s : State) : s.hostReset.Inv := ⟨rfl, rfl, rfl, rfl, rfl, fun h => nomatch h.1⟩

theorem State.Inv.sessionWith {p : Parameters} {ops : List HostOp} {s t : State} (hs : s.Inv)
    (h : sessionWith p ops s = .next t) : t.Inv :=
  sessionWith_keeps (fun _ _ hs => hs.stepWith) (fun _ pairs hs => hs.hostLoad pairs) (fun _ s _ => State.hostReset_inv s) hs h

/-! ### A table whose rows all have a meaning -/

/-- A step stops exactly at a row whose instruction needs an address that its mode does not return (R82). -/
theorem streamStepWith_eq_none_iff {table : List TableRow} {s : State} :
    streamStepWith table s = none ↔ ∃ row, lookupRow table (s.memRead s.pc) = some row ∧
      row.mode = .implied ∧ row.mnemonic ≠ .sec ∧ row.mnemonic ≠ .sed := by
  cases hrow : lookupRow table (s.memRead s.pc) with
  | none => simp [streamStepWith_of_no_row hrow]
  | some r => simp [streamStepWith_of_row hrow, execForm_eq_none]

theorem stepWith_completes_iff {table : List TableRow} {s : State} :
    (∃ t, stepWith table s = .next t) ↔ streamStepWith table s ≠ none := by
  rw [Option.ne_none_iff_exists']
  exact exists_congr fun _ => stepWith_eq_next_iff

/-- Where every row has a meaning, every step completes. -/
theorem stepWith_completes {table : List TableRow} (h : ∀ row ∈ table, row.hasMeaning = true) (s : State) :
    ∃ t, stepWith table s = .next t := by
  rw [stepWith_completes_iff]
  intro hnone
  obtain ⟨row, hrow, hpair⟩ := streamStepWith_eq_none_iff.mp hnone
  have hfalse := (hasMeaning_eq_false (r := row) (s := s)).mpr (execForm_eq_none.mpr hpair)
  rw [h row (mem_of_lookupRow hrow)] at hfalse
  cases hfalse

theorem decodeTable_rows_have_meaning : ∀ row ∈ decodeTable, row.hasMeaning = true := by decide

/-! ### The obligations about any table and any session -/

/-- Settles O55: a step and a session keep the invariant whatever the table, and stop only at a row without a meaning. -/
theorem hostSessionUnderAnyParametersKeepsTheInvariant : Obligations.HostSessionUnderAnyParametersKeepsTheInvariant :=
  ⟨fun _ _ _ hs h => hs.stepWith h, fun _ _ _ _ hs h => hs.sessionWith h,
    fun _ ops s hrows => sessionWith_completes (stepWith_completes hrows) ops s⟩

/-- Settles O16: the step is the step under the chosen table. -/
theorem stepKeepsTheInvariant : Obligations.StepKeepsTheInvariant := fun _ _ hs h => hs.stepWith h

/-- Settles O17: a session is the session under the chosen parameters, and completes. -/
theorem hostSessionKeepsTheInvariant : Obligations.HostSessionKeepsTheInvariant := by
  intro ops s hs
  obtain ⟨t, ht⟩ := session_completes ops s
  exact ⟨t, ht, hs.sessionWith ht⟩

/-- Settles O15: every field of the reset state is the one the invariant asks for. -/
theorem resetMeetsTheInvariant : Obligations.ResetMeetsTheInvariant := State.hostReset_inv State.reset

/-- Settles O52: the step is the pseudocode's and stops where that does. -/
theorem stepUnderAnyTableRefinesTheStreamReading : Obligations.StepUnderAnyTableRefinesTheStreamReading := by
  refine ⟨fun _ _ _ => stepWith_eq_next_iff.symm, fun table s => ?_, decodeTable_rows_have_meaning, fun _ => rfl⟩
  rw [← not_exists, stepWith_completes_iff, not_not, streamStepWith_eq_none_iff]

/-- Settles O43: every step completes, and the pseudocode's next state is the step's. -/
theorem stepRefinesTheStreamReading : Obligations.StepRefinesTheStreamReading :=
  fun s => ⟨_, stepWith_eq_next_iff.mp (step_eq s), step_eq s⟩

/-- Settles O42: every instruction and every step has an effect. -/
theorem everyStepCompletes : Obligations.EveryStepCompletes :=
  ⟨fun i s => ⟨_, exec_eq i s⟩, fun s => ⟨_, step_eq s⟩⟩

end Sys2Proof.Machine

/-! ## What a step leaves and where it ends: frames, PC, diagnostics, and what no step reads -/

namespace Sys2Proof.Machine

/-! ### Diagnostics, and the fields that no effect reads -/

/-- The diagnostics an effect puts out, from PC before it (R160 to R162). -/
def Effect.diagnostics (e : Effect) (pc : Word) : List Diagnostic :=
  match e with
  | .jump t => if jumpTargetValid t then [] else [.invalidJumpTarget t]
  | .unrecognized op => [.unrecognizedOpcode op pc]
  | .load _ _ _ | .setCarry | .setDecimal => []

/-- Under any SP, memory and earlier reports an effect is the same: it leaves SP and memory and adds its diagnostics. -/
theorem Effect.apply_withUnread (e : Effect) (s : State) (x : Word) (m : Memory) (rs : List Diagnostic) :
    e.apply { s with sp := x, mem := m, reports := rs } =
      { e.apply s with sp := x, mem := m, reports := rs ++ e.diagnostics s.pc } := by
  cases e with
  | load r v len => cases r <;> simp [Effect.apply, Effect.diagnostics, State.advance, State.setPc, State.setZN, State.writeReg]
  | jump t =>
    cases hvalid : jumpTargetValid t <;>
      simp [Effect.apply, Effect.diagnostics, State.jumpTo, State.advance, State.setPc, State.report, hvalid]
  | setCarry => simp [Effect.apply, Effect.diagnostics, State.setCarry, State.advance, State.setPc]
  | setDecimal => simp [Effect.apply, Effect.diagnostics, State.setDecimal, State.advance, State.setPc]
  | unrecognized op => rfl

theorem Effect.apply_eq_withUnread (e : Effect) (s : State) :
    e.apply s = { e.apply s with sp := s.sp, mem := s.mem, reports := s.reports ++ e.diagnostics s.pc } :=
  e.apply_withUnread s s.sp s.mem s.reports

@[simp] theorem Effect.apply_sp (e : Effect) (s : State) : (e.apply s).sp = s.sp := by
  rw [Effect.apply_eq_withUnread]

@[simp] theorem Effect.apply_reports (e : Effect) (s : State) : (e.apply s).reports = s.reports ++ e.diagnostics s.pc := by
  rw [Effect.apply_eq_withUnread]

@[simp] theorem reportsSince_apply (e : Effect) (s : State) : reportsSince s (e.apply s) = e.diagnostics s.pc := by
  rw [reportsSince, Effect.apply_reports, List.drop_left]

/-- Where another SP, memory and earlier reports leave the effect of the step as it is, they leave the rest of the step as it is. -/
theorem step_withUnread {s t : State} (h : step s = .next t) (x : Word) (m : Memory) (rs : List Diagnostic)
    (heff : State.effect { s with sp := x, mem := m, reports := rs } = s.effect) :
    step { s with sp := x, mem := m, reports := rs } =
      .next { t with sp := x, mem := m, reports := rs ++ reportsSince s t } := by
  obtain rfl := step_eq_next_iff.mp h
  rw [step_eq, heff, Effect.apply_withUnread, reportsSince_apply]

/-- Settles O19: no effect writes or reads SP, and the invariant of a session fixes it. -/
theorem stackPointerNeverMoves : Obligations.StackPointerNeverMoves := by
  refine ⟨fun s t x h => ?_, fun ops => ?_⟩
  · obtain rfl := step_eq_next_iff.mp h
    exact ⟨Effect.apply_sp ..,
      (step_withUnread h x s.mem s.reports (State.effect_congr rfl rfl rfl rfl rfl)).trans (by simp)⟩
  · obtain ⟨t, ht, -, hsp, -⟩ := hostSessionKeepsTheInvariant ops State.reset resetMeetsTheInvariant
    exact ⟨t, ht, hsp⟩

/-- Settles O47: a step's effect does not depend on the reports, and adds its diagnostics to any. -/
theorem reportsAreNotObservable : Obligations.ReportsAreNotObservable := by
  intro s t earlier h
  obtain rfl := step_eq_next_iff.mp h
  exact ⟨by simp, (step_withUnread h s.sp s.mem earlier (State.effect_congr rfl rfl rfl rfl rfl)).trans (by simp)⟩

/-- Settles O46: the diagnostics of the step's effect, instruction by instruction. -/
theorem diagnosticsAndNothingElse : Obligations.DiagnosticsAndNothingElse := by
  intro s t h
  obtain rfl := step_eq_next_iff.mp h
  rw [Effect.apply_reports, State.effect]
  cases s.instrAt with
  | none => rfl
  | some i => cases i <;> rfl

/-! ### Frames -/

/-- Settles O40: a load effect writes its register, Zero, Negative and PC. -/
theorem loadsAndLogicalFrame : Obligations.LoadsAndLogicalFrame := by
  intro i r s t hdest h
  obtain ⟨v, heff⟩ := effectOf_of_destOf_eq_some hdest s
  rw [exec_eq_next_iff, heff] at h
  subst h
  refine ⟨fun q hq => ?_, Effect.apply_sp .., Effect.apply_flagC .., Effect.apply_flagI .., Effect.apply_flagD ..,
    Effect.apply_flagB .., Effect.apply_flagV .., fun a => ?_, (Effect.apply_reports ..).trans (List.append_nil _)⟩
  · simp [Effect.apply, State.readReg_writeReg_ne, hq]
  · exact congrArg (Memory.read · a) (Effect.apply_mem _ s)

/-- JMP, SEC and SED, which have no destination, write no general register. -/
theorem effectOf_apply_readReg {i : Instr} (h : destOf i.mnemonic = none) (s : State) (q : Reg) :
    ((effectOf i s).apply s).readReg q = s.readReg q := by
  cases i with
  | jmpAbs nnnn | jmpInd nnnn =>
    simp only [effectOf, Effect.apply]
    rw [State.jumpTo_frame]
    cases q <;> rfl
  | sec | sed => cases q <;> rfl
  | _ => cases h

theorem effectOf_diagnostics_of_mnemonic_ne_jmp {i : Instr} (h : i.mnemonic ≠ .jmp) (s : State) (pc : Word) :
    (effectOf i s).diagnostics pc = [] := by
  cases i with
  | jmpAbs nnnn | jmpInd nnnn => exact absurd rfl h
  | _ => rfl

theorem Effect.length_diagnostics_le_one (e : Effect) (pc : Word) : (e.diagnostics pc).length ≤ 1 := by
  cases e with
  | jump t => cases hvalid : jumpTargetValid t <;> simp [Effect.diagnostics, hvalid]
  | load | setCarry | setDecimal => exact Nat.zero_le 1
  | unrecognized => exact Nat.le_refl 1

/-- Settles O41: field by field from the effect of the instruction. -/
theorem jumpsAndFlagSetsFrame : Obligations.JumpsAndFlagSetsFrame := by
  intro i s t hdest h
  obtain rfl := exec_eq_next_iff.mp h
  obtain ⟨hzero, hneg⟩ := effectOf_zeroAfter_negativeAfter hdest s s.flagZ s.flagN
  refine ⟨effectOf_apply_readReg hdest s, Effect.apply_sp .., fun hsec => ?_, (Effect.apply_flagZ ..).trans hzero,
    Effect.apply_flagI .., fun hsed => ?_, Effect.apply_flagB .., Effect.apply_flagV .., (Effect.apply_flagN ..).trans hneg,
    fun a => ?_, fun hjmp => ?_, fun _ => ⟨_, Effect.apply_reports .., Effect.length_diagnostics_le_one ..⟩⟩
  · simp [effectOf_carryAfter, mt mnemonic_eq_sec_iff.mpr hsec]
  · simp [effectOf_decimalAfter, mt mnemonic_eq_sed_iff.mpr hsed]
  · exact congrArg (Memory.read · a) (Effect.apply_mem _ s)
  · rw [Effect.apply_reports, effectOf_diagnostics_of_mnemonic_ne_jmp hjmp, List.append_nil]

/-! ### Where PC is after a step -/

theorem jumpTargetValid_eq_false_iff (t : Word) : jumpTargetValid t = false ↔ Reserved t := by
  rw [← Bool.not_eq_true, jumpTargetValid_eq_true_iff, not_not]

theorem Effect.apply_jump_of_not_reserved {t : Word} (h : ¬Reserved t) (s : State) :
    (Effect.jump t).apply s = { s with pc := t } :=
  State.jumpTo_valid ((jumpTargetValid_eq_true_iff t).mpr h)

theorem Effect.apply_jump_of_reserved {t : Word} (h : Reserved t) (s : State) : (Effect.jump t).apply s =
    { s with pc := s.pc + 3#16, reports := s.reports ++ [.invalidJumpTarget t] } :=
  State.jumpTo_rejected ((jumpTargetValid_eq_false_iff t).mpr h)

/-- An instruction that does not jump leaves PC past its own bytes (R25). -/
theorem effectOf_apply_pc_of_mnemonic_ne_jmp {i : Instr} (h : i.mnemonic ≠ .jmp) (s : State) :
    ((effectOf i s).apply s).pc = s.pc + BitVec.ofNat 16 (encode i).length := by
  cases i with
  | jmpAbs nnnn | jmpInd nnnn => exact absurd rfl h
  | _ => rfl

theorem encode_length_of_mnemonic_eq_jmp {i : Instr} (h : i.mnemonic = .jmp) : (encode i).length = 3 := by
  cases i <;> cases h <;> rfl

/-- Settles O44: for each kind of step, where its effect leaves PC. -/
theorem pcAfterEachStep : Obligations.PcAfterEachStep := by
  intro s t h
  refine ⟨fun hnone => ?_, fun i hat hjmp => ?_, fun p hat => ?_, fun p hat => ?_⟩
  · rw [step_of_instrAt_eq_none hnone] at h
    cases h
    rfl
  all_goals
    rw [step_of_instrAt_eq_some hat] at h
    obtain rfl := exec_eq_next_iff.mp h
  · exact effectOf_apply_pc_of_mnemonic_ne_jmp hjmp s
  all_goals
    exact ⟨fun hvalid => congrArg State.pc (Effect.apply_jump_of_not_reserved hvalid s),
      fun hreserved => congrArg State.pc (Effect.apply_jump_of_reserved hreserved s)⟩

/-- The length of the instruction at PC is the one its opcode byte gives (R72). -/
theorem lengthFor_of_instrAt_eq_some {s : State} {i : Instr} (h : s.instrAt = some i) :
    lengthFor decodeTable (s.memRead s.pc) = (encode i).length := by
  rw [State.instrAt, decodeInstrWith_eq_some_iff] at h
  obtain ⟨rest, h⟩ := h
  obtain ⟨⟨r, hrow, -, hmode⟩, -⟩ := decodeWith_cons_eq_instr_iff.mp h
  rw [lengthFor_of_row hrow, hmode, encode_length]

theorem lengthFor_of_instrAt_eq_none {s : State} (h : s.instrAt = none) : lengthFor decodeTable (s.memRead s.pc) = 1 :=
  lengthFor_of_no_row (State.instrAt_eq_none_iff.mp h)

/-- Settles O45: only a taken jump leaves PC elsewhere than past the step's own bytes, and a taken jump's target is not reserved. -/
theorem reservedRegionsEnteredByFallThroughOnly : Obligations.ReservedRegionsEnteredByFallThroughOnly := by
  intro s t h hpc
  cases hat : s.instrAt with
  | none =>
    rw [step_of_instrAt_eq_none hat] at h
    cases h
    rw [lengthFor_of_instrAt_eq_none hat]
    rfl
  | some i =>
    rw [step_of_instrAt_eq_some hat] at h
    obtain rfl := exec_eq_next_iff.mp h
    rw [lengthFor_of_instrAt_eq_some hat]
    by_cases hjmp : i.mnemonic = .jmp
    · obtain ⟨a, heff⟩ := effectOf_of_mnemonic_eq_jmp hjmp s
      rw [heff] at hpc ⊢
      by_cases hreserved : Reserved a
      · rw [Effect.apply_jump_of_reserved hreserved, encode_length_of_mnemonic_eq_jmp hjmp]
      · rw [Effect.apply_jump_of_not_reserved hreserved] at hpc
        exact absurd hpc hreserved
    · exact effectOf_apply_pc_of_mnemonic_ne_jmp hjmp s

/-- Settles O6: the length by its definition; an instruction's bytes are as many as its row's mode says; and a rejected jump
ends past its three. -/
theorem lengthComesFromTheMode : Obligations.LengthComesFromTheMode := by
  refine ⟨fun _ => lengthFor_of_no_row, fun _ _ => lengthFor_of_row, fun op rest left i h => ?_, rfl, by decide, by decide,
    fun s nnnn hreserved => ?_, fun s nnnn hreserved => ?_⟩
  · obtain ⟨⟨r, hrow, -, hmode⟩, hbytes⟩ := decodeWith_cons_eq_instr_iff.mp h
    rw [lengthFor_of_row hrow, hmode, encode_length, hbytes, List.length_cons, List.length_append, operands_length]
    omega
  · exact ⟨rfl, _, exec_eq _ s, congrArg State.pc (Effect.apply_jump_of_reserved hreserved s)⟩
  · exact ⟨rfl, _, exec_eq _ s, congrArg State.pc (Effect.apply_jump_of_reserved hreserved s)⟩

end Sys2Proof.Machine

/-! ## Memory and the bytes a step reads -/

namespace Sys2Proof.Machine

/-! ### Canonical memories -/

/-- Below every cell an address reads 0x00. -/
theorem Memory.cell_of_forall_lt {m : Memory} {a : Nat} (h : ∀ c ∈ m, a < c.1) : m.cell a = 0x00#8 := by
  induction m with
  | nil => rfl
  | cons c rest ih =>
    rw [Memory.cell, if_neg (h c List.mem_cons_self).ne']
    exact ih fun d hd => h d (List.mem_cons_of_mem c hd)

/-- The least cell of a canonical memory tells it from a memory whose cells all lie above. -/
theorem Memory.cell_head_ne {a : Nat} {v : Byte} {rest n : Memory} (hwf : Memory.wf ((a, v) :: rest) = true)
    (h : ∀ c ∈ n, a < c.1) : Memory.cell ((a, v) :: rest) a ≠ n.cell a := by
  rw [Memory.cell, if_pos rfl, Memory.cell_of_forall_lt h]
  exact ((Memory.wf_cons a v rest).mp hwf).2.1

/-- Every cell of a canonical memory lies at the first or above it. -/
theorem Memory.forall_lt_of_lt_head {a b : Nat} {v : Byte} {rest : Memory} (hwf : Memory.wf ((a, v) :: rest) = true)
    (h : b < a) : ∀ c ∈ (a, v) :: rest, b < c.1 := by
  obtain ⟨-, -, hrest, -⟩ := (Memory.wf_cons a v rest).mp hwf
  intro c hc
  obtain rfl | hc := List.mem_cons.mp hc
  · exact h
  · exact h.trans (hrest c hc)

/-- Canonical memories with the same byte at every cell address are equal: their least cells are the same, and below the next cell
the rest reads 0x00. -/
theorem Memory.eq_of_cell_eq {m n : Memory} (hm : m.wf = true) (hn : n.wf = true)
    (h : ∀ a < 65536, m.cell a = n.cell a) : m = n := by
  induction m generalizing n with
  | nil =>
    cases n with
    | nil => rfl
    | cons d rest =>
      obtain ⟨hd, -⟩ := (Memory.wf_cons d.1 d.2 rest).mp hn
      exact absurd (h d.1 hd).symm (Memory.cell_head_ne hn nofun)
  | cons c mrest ih =>
    obtain ⟨hc, -, hcrest, hmrest⟩ := (Memory.wf_cons c.1 c.2 mrest).mp hm
    cases n with
    | nil => exact absurd (h c.1 hc) (Memory.cell_head_ne hm nofun)
    | cons d nrest =>
      obtain ⟨hd, -, hdrest, hnrest⟩ := (Memory.wf_cons d.1 d.2 nrest).mp hn
      obtain hlt | heq | hgt := Nat.lt_trichotomy c.1 d.1
      · exact absurd (h c.1 hc) (Memory.cell_head_ne hm (Memory.forall_lt_of_lt_head hn hlt))
      · have hhead : c = d := Prod.ext heq (by simpa [Memory.cell, heq] using h c.1 hc)
        subst hhead
        congr 1
        refine ih hmrest hnrest fun a ha => ?_
        by_cases hca : c.1 = a
        · rw [← hca, Memory.cell_of_forall_lt hcrest, Memory.cell_of_forall_lt hdrest]
        · simpa [Memory.cell, hca] using h a ha
      · exact absurd (h d.1 hd).symm (Memory.cell_head_ne hn (Memory.forall_lt_of_lt_head hm hgt))

/-- Settles O12: a read at an address of the space is the byte of its cell. -/
theorem canonicalMemoriesThatReadAlikeAreEqual : Obligations.CanonicalMemoriesThatReadAlikeAreEqual := by
  intro m n hm hn h
  refine Memory.eq_of_cell_eq hm hn fun a ha => ?_
  have hread := h a ha
  rwa [Memory.read, Memory.read, show a % memorySize = a from Nat.mod_eq_of_lt ha] at hread

/-! ### What a step reads -/

theorem State.bytesAt_eq_map (s : State) (a : Word) (n : Nat) :
    s.bytesAt a n = ((List.range n).map (fun k => a + BitVec.ofNat 16 k)).map s.memRead := by
  induction n with
  | zero => rfl
  | succ n ih => rw [State.bytesAt_add, ih, List.range_succ, List.map_append, List.map_append]; rfl

/-- An instruction's effect depends on memory through its data bytes alone (R47). -/
theorem effectOf_congr_of_dataReads {i : Instr} {s : State} {m : Memory}
    (h : ∀ a ∈ dataReads i s, State.memRead { s with mem := m } a = s.memRead a) :
    effectOf i { s with mem := m } = effectOf i s := by
  cases i with
  | andImm _ | ldaImm _ | ldxImm _ | ldyImm _ | jmpAbs _ | sec | sed => rfl
  | jmpInd nnnn =>
    obtain ⟨hlo, hhi, -⟩ := List.forall_mem_cons.mp h |>.imp_right List.forall_mem_cons.mp
    simp only [effectOf, indirectAddr, State.memRead16, hlo, hhi]
  | _ => exact congrArg (Effect.load _ · _) (h _ List.mem_cons_self)

/-- The effect of a step depends on memory through the bytes it reads alone (R47, R94). -/
theorem State.effect_congr_of_readSet {s : State} {m : Memory}
    (h : ∀ a ∈ s.readSet, State.memRead { s with mem := m } a = s.memRead a) :
    State.effect { s with mem := m } = s.effect := by
  cases hat : s.instrAt with
  | none =>
    rw [State.readSet, hat] at h
    have hop := h s.pc List.mem_cons_self
    have hnone : State.instrAt { s with mem := m } = none := by
      rw [State.instrAt_eq_none_iff] at hat ⊢
      rwa [hop]
    rw [State.effect, State.effect, hat, hnone, hop]
  | some i =>
    rw [State.readSet, hat] at h
    obtain ⟨hown, hdata⟩ := List.forall_mem_append.mp h
    have hsome : State.instrAt { s with mem := m } = some i := by
      rw [State.instrAt_eq_some_iff] at hat ⊢
      refine Eq.trans ?_ hat
      rw [State.bytesAt_eq_map, State.bytesAt_eq_map]
      exact List.map_congr_left hown
    rw [State.effect, State.effect, hat, hsome]
    exact effectOf_congr_of_dataReads hdata

theorem State.readSet_length (s : State) : 1 ≤ s.readSet.length ∧ s.readSet.length ≤ 5 := by
  rw [State.readSet]
  cases s.instrAt with
  | none => simp
  | some i => cases i <;> simp [dataReads, encode, Instr.operands]

/-- Settles O13: the effect reads the bytes of the read set, and leaves memory. -/
theorem stepDependsOnlyOnBytesItReads : Obligations.StepDependsOnlyOnBytesItReads := by
  refine ⟨State.readSet_length, fun s t m hread h => ?_⟩
  obtain rfl := step_eq_next_iff.mp h
  exact (step_withUnread h s.sp m s.reports (State.effect_congr_of_readSet hread)).trans (by simp)

end Sys2Proof.Machine

/-! ## Runs -/

namespace Sys2Proof.Machine

/-- Where every step leads to `f`, a run is `f` once a unit. -/
theorem runPerOpcodeFetch_eq_iterate {table : List TableRow} {f : State → State} (h : ∀ s, stepWith table s = .next (f s))
    (n : Nat) (s : State) : runPerOpcodeFetch table n s = .next (f^[n] s) := by
  induction n generalizing s with
  | zero => rfl
  | succ n ih => rw [runPerOpcodeFetch_succ, h, onNext_next, ih, Function.iterate_succ_apply]

/-- Settles O48: the total next-state function is the step's effect. -/
theorem runIsExactlyBudgetSteps : Obligations.RunIsExactlyBudgetSteps :=
  ⟨fun s => s.effect.apply s, step_eq, runPerOpcodeFetch_eq_iterate step_eq⟩

/-- Two runs are one, under any table (R147). -/
theorem runPerOpcodeFetch_add (table : List TableRow) (m n : Nat) (s : State) :
    onNext (runPerOpcodeFetch table m s) (runPerOpcodeFetch table n) = runPerOpcodeFetch table (m + n) s := by
  induction m generalizing s with
  | zero => rw [Nat.zero_add]; rfl
  | succ m ih =>
    rw [Nat.succ_add, runPerOpcodeFetch_succ, runPerOpcodeFetch_succ, onNext_assoc]
    exact congrArg (onNext _) (funext ih)

/-- Settles O49: both clauses are that of `runPerOpcodeFetch`, at the chosen table and at any. -/
theorem runsCompose : Obligations.RunsCompose :=
  ⟨runPerOpcodeFetch_add decodeTable, runPerOpcodeFetch_add⟩

/-- An instruction is of one to three bytes (R60). -/
theorem lengthFor_bounds (table : List TableRow) (op : Byte) : 1 ≤ lengthFor table op ∧ lengthFor table op ≤ 3 := by
  cases hrow : lookupRow table op with
  | none => rw [lengthFor_of_no_row hrow]; decide
  | some r =>
    have hle := operandBytes_le_two r.mode
    rw [lengthFor_of_row hrow]
    omega

/-- The byte accounting's loop, with fuel enough for the budget, is a run of some steps, each paid for by one to three units. -/
theorem runBytesLoop_eq_runPerOpcodeFetch (table : List TableRow) {fuel b : Nat} (hfuel : b ≤ fuel) (s : State) :
    ∃ k, k ≤ b ∧ b ≤ 3 * k ∧ runBytesLoop table fuel b s = runPerOpcodeFetch table k s := by
  induction fuel generalizing b s with
  | zero =>
    obtain rfl := Nat.le_zero.mp hfuel
    exact ⟨0, Nat.le_refl 0, Nat.le_refl 0, rfl⟩
  | succ fuel ih =>
    cases b with
    | zero => exact ⟨0, Nat.le_refl 0, Nat.le_refl 0, rfl⟩
    | succ b =>
      obtain ⟨hpos, hle⟩ := lengthFor_bounds table (s.memRead s.pc)
      rw [runBytesLoop]
      cases hstep : stepWith table s with
      | next u =>
        obtain ⟨k, hkb, hbk, hrun⟩ := ih (b := b + 1 - lengthFor table (s.memRead s.pc)) (by omega) u
        refine ⟨k + 1, by omega, by omega, ?_⟩
        rw [runPerOpcodeFetch_succ, hstep]
        exact hrun
      | fault r => exact nomatch r
      | refused r =>
        refine ⟨b + 1, Nat.le_refl _, by omega, ?_⟩
        rw [runPerOpcodeFetch_succ, hstep]
        rfl

/-- Settles O50: the byte accounting starts its loop with as much fuel as budget. -/
theorem accountingsRunTheSameSteps : Obligations.AccountingsRunTheSameSteps :=
  fun table b s => runBytesLoop_eq_runPerOpcodeFetch table (Nat.le_refl b) s

/-- Where memory is empty a step consumes a byte 0x00, which has no row (R71). -/
theorem step_of_mem_eq_nil {s : State} (h : s.mem = []) : step s = .next (s.consumeUnrecognized 0x00#8) := by
  have hop : s.memRead s.pc = 0x00#8 := by rw [State.memRead, h]; rfl
  rw [step, stepWith_of_lookupRow_eq_none (by rw [hop]; decide), hop]

/-- One more unit is one more step at the end. -/
theorem run_succ_eq_next {n : Nat} {s t u : State} (hrun : run n s = .next t) (hstep : step t = .next u) :
    run (n + 1) s = .next u := by
  rw [← runsCompose.1 n 1 s, hrun]
  exact congrArg (onNext · (runPerOpcodeFetch decodeTable 0)) hstep

/-- Settles O51: one 0x00 consumed a step, and memory stays empty. -/
theorem runOverUnloadedMemory : Obligations.RunOverUnloadedMemory := by
  intro n s hmem
  induction n with
  | zero =>
    rw [BitVec.add_zero, List.range_zero, List.map_nil, List.append_nil]
    rfl
  | succ n ih =>
    rw [run_succ_eq_next ih (step_of_mem_eq_nil hmem), State.consumeUnrecognized_eq]
    simp [List.range_succ, BitVec.ofNat_add, BitVec.add_assoc]

end Sys2Proof.Machine

/-! ## Decoding at PC under any table, and steps through the resolved address -/

namespace Sys2Proof.Machine

/-! ### The three bytes at PC, decoded -/

theorem decodeWith_bytesAt_of_no_row {table : List TableRow} {s : State} (h : lookupRow table (s.memRead s.pc) = none) :
    decodeWith table (s.bytesAt s.pc 3) = .rejected (.unrecognizedOpcode (s.memRead s.pc)) :=
  decodeWith_cons_of_no_row h _

/-- A row at PC decodes, under any table, to what its listing stands for; a listing that is no instruction is a form of that
table, or has no meaning (log 2). The operand bytes are never missing. -/
theorem decodeWith_bytesAt_of_row {table : List TableRow} {s : State} {r : TableRow}
    (h : lookupRow table (s.memRead s.pc) = some r) {l : Listing}
    (hl : l = ⟨r.mnemonic, r.mode, s.bytesAt (s.pc + 1#16) r.mode.operandBytes⟩) :
    decodeWith table (s.bytesAt s.pc 3) = l.toInstr.elim
      (if r.hasMeaning then .form l ((s.bytesAt (s.pc + 1#16) 2).drop r.mode.operandBytes)
        else .rejected (.noSuchForm (s.memRead s.pc)))
      (fun i => .instr i ((s.bytesAt (s.pc + 1#16) 2).drop r.mode.operandBytes)) := by
  subst hl
  have hle := operandBytes_le_two r.mode
  rw [State.bytesAt, decodeWith, h]
  simp only [State.bytesAt_length, Nat.not_lt.mpr hle, if_false, s.bytesAt_take _ hle]
  cases Listing.toInstr ⟨r.mnemonic, r.mode, s.bytesAt (s.pc + 1#16) r.mode.operandBytes⟩ <;> rfl

/-- Settles O53: row by row of the table, the decoder's answer and the step's. -/
theorem stepRunsWhatAnyTableDecodes : Obligations.StepRunsWhatAnyTableDecodes := by
  intro table s
  refine ⟨fun i rest h => stepWith_of_decodeInstrWith (decodeInstrWith_eq_some_iff.mpr ⟨rest, h⟩), ?_⟩
  cases hrow : lookupRow table (s.memRead s.pc) with
  | none =>
    rw [decodeWith_bytesAt_of_no_row hrow]
    refine ⟨nofun, fun op h => ?_, nofun, nofun⟩
    cases h
    exact ⟨rfl, stepWith_of_lookupRow_eq_none hrow⟩
  | some r =>
    rw [decodeWith_bytesAt_of_row hrow rfl, stepWith_eq, streamStepWith_of_row hrow]
    cases Listing.toInstr ⟨r.mnemonic, r.mode, s.bytesAt (s.pc + 1#16) r.mode.operandBytes⟩ with
    | some i => exact ⟨nofun, nofun, nofun, nofun⟩
    | none =>
      cases hmeaning : r.hasMeaning with
      | true =>
        refine ⟨fun l rest h => ?_, nofun, nofun, nofun⟩
        cases h
        obtain ⟨t, ht⟩ := Option.ne_none_iff_exists'.mp fun hnone =>
          absurd (hasMeaning_eq_false.mpr hnone) (by simp [hmeaning] : r.hasMeaning ≠ false)
        exact ⟨t, ht, by rw [ht]; rfl⟩
      | false =>
        refine ⟨nofun, nofun, fun op h => ?_, nofun⟩
        cases h
        rw [hasMeaning_eq_false.mp hmeaning]
        exact ⟨rfl, rfl⟩

/-- Settles O1: the chosen table's case of what a step under any table does. -/
theorem stepRunsDecodedInstruction : Obligations.StepRunsDecodedInstruction := by
  refine ⟨fun s i rest h => ?_, fun s h => ?_, fun s h => ?_⟩
  · exact (stepRunsWhatAnyTableDecodes decodeTable s).1 i rest h
  · exact ((stepRunsWhatAnyTableDecodes decodeTable s).2.2.1 _ h).2
  · exact decodeWith_bytesAt_of_no_row (State.instrAt_eq_none_iff.mp h)

/-- A step under any table at a row whose mode returns an address, once the row's rule there is known. -/
theorem stepWith_of_execForm {table : List TableRow} {s t : State} {r : TableRow}
    (hrow : lookupRow table (s.memRead s.pc) = some r) (h : execForm r.mnemonic r.mode (s.advance 1) = some t) :
    stepWith table s = .next t := by
  rw [stepWith_eq_next_iff, streamStepWith_of_row hrow, h]

/-- Settles O54: the row's rule at the resolved address, on the state past the row's own bytes. -/
theorem loadsAndJumpsWorkThroughTheResolvedAddress : Obligations.LoadsAndJumpsWorkThroughTheResolvedAddress := by
  intro table s row ea hrow haddr past v
  have hpast : (resolve row.mode (s.advance 1)).2 = s.setPc past := by
    rw [resolve_advance_one_snd, ← lengthFor_of_row hrow]
    rfl
  refine ⟨fun hmn => ?_, fun hmn => ?_, fun hmn => ?_, fun hmn hvalid => ?_, fun hmn hreserved => ?_⟩
  all_goals
    apply stepWith_of_execForm hrow
    simp only [hmn, execForm, haddr, hpast]
  · rfl
  · rfl
  · rfl
  · rw [State.jumpTo_valid ((jumpTargetValid_eq_true_iff ea).mpr hvalid)]
    rfl
  · rw [State.jumpTo_rejected ((jumpTargetValid_eq_false_iff ea).mpr hreserved)]
    rfl

/-- Settles O4: each word evaluated. -/
theorem tableWordsDecode : Obligations.TableWordsDecode := by
  unfold Obligations.TableWordsDecode
  decide

end Sys2Proof.Machine

/-! ## The addressing modes in plain arithmetic -/

namespace Sys2Proof.Machine

theorem zext16_eq_ofNat (b : Byte) : zext16 b = BitVec.ofNat 16 b.toNat := by
  apply BitVec.eq_of_toNat_eq
  rw [zext16, BitVec.toNat_setWidth, BitVec.toNat_ofNat]

theorem zext16_add (a b : Byte) : zext16 (a + b) = BitVec.ofNat 16 ((a.toNat + b.toNat) % 256) := by
  rw [zext16_eq_ofNat, BitVec.toNat_add]

theorem word16_add_zext16 (hi lo x : Byte) :
    word16 hi lo + zext16 x = BitVec.ofNat 16 ((hi.toNat * 256 + lo.toNat + x.toNat) % 65536) := by
  apply BitVec.eq_of_toNat_eq
  rw [zext16_eq_ofNat, word16, ← BitVec.ofNat_add, BitVec.toNat_ofNat, BitVec.toNat_ofNat, Nat.mod_mod]

/-- Sign extension keeps the signed number a byte stands for. -/
theorem sext16_ofInt {o : Int} (hlo : -128 ≤ o) (hhi : o ≤ 127) : sext16 (BitVec.ofInt 8 o) = BitVec.ofInt 16 o := by
  apply BitVec.eq_of_toInt_eq
  rw [sext16, BitVec.toInt_signExtend_of_le (by decide), BitVec.toInt_ofInt, BitVec.toInt_ofInt]
  rw [Int.bmod_eq_of_le (by omega) (by omega), Int.bmod_eq_of_le (by omega) (by omega)]

/-- The word at PC, low byte first. -/
theorem memRead16_eq_of_toNat {s : State} {a p : Word}
    (h : p.toNat = (s.memRead (a + 1#16)).toNat * 256 + (s.memRead a).toNat) : s.memRead16 a = p :=
  BitVec.eq_of_toNat_eq ((word16_toNat ..).trans h.symm)

/-- Settles O26: each mode's address from its bytes, and the rows that use it. -/
theorem modesResolveAsRuled : Obligations.ModesResolveAsRuled := by
  refine ⟨fun s => ⟨?_, ?_, ?_, ?_, ?_, ?_, ?_⟩, rfl, rfl, rfl, rfl, rfl, rfl, rfl⟩ <;>
    refine Prod.ext (congrArg some ?_) (resolve_snd _ s)
  · rfl
  · exact zext16_eq_ofNat _
  · exact zext16_add ..
  · exact zext16_add ..
  · rfl
  · exact word16_add_zext16 ..
  · exact word16_add_zext16 ..

/-- Settles O27: the word pointed to, and the offset's signed number, each from its bytes. -/
theorem impliedIndirectRelativeResolve : Obligations.ImpliedIndirectRelativeResolve := by
  refine ⟨fun s => rfl, fun s p hp => ?_, fun s o hlo hhi ho => ?_, rfl, rfl, rfl⟩
  · refine Prod.ext (congrArg some ?_) (resolve_snd _ s)
    rw [fetch16_word, memRead16_eq_of_toNat hp]
    rfl
  · refine Prod.ext (congrArg some ?_) (resolve_snd _ s)
    rw [fetch_byte, ho, relativeAddr, sext16_ofInt hlo hhi]
    rfl

end Sys2Proof.Machine

/-! ## The instructions one by one: their effects written out, and their steps at their bytes -/

namespace Sys2Proof.Machine

/-! ### A step at an instruction's bytes -/

/-- Where an instruction's opcode stands at PC and its operands after it, a step runs it (R60). -/
theorem step_of_encoding {s : State} {i : Instr} (hop : s.memRead s.pc = i.opcode)
    (hoperands : s.bytesAt (s.pc + 1#16) i.operands.length = i.operands) : step s = exec i s := by
  apply step_of_instrAt_eq_some
  rw [State.instrAt_eq_some_iff, encode, List.length_cons, State.bytesAt, hop, hoperands]

/-- An operand word stands after the opcode low byte first (R63). -/
theorem bytesAt_two_of_toNat {s : State} {w : Word}
    (h : w.toNat = (s.memRead (s.pc + 2#16)).toNat * 256 + (s.memRead (s.pc + 1#16)).toNat) :
    s.bytesAt (s.pc + 1#16) 2 = [lowByte w, highByte w] := by
  have hnext : s.pc + 1#16 + 1#16 = s.pc + 2#16 := BitVec.add_assoc ..
  obtain rfl : s.memRead16 (s.pc + 1#16) = w := memRead16_eq_of_toNat (by rw [hnext, h])
  rw [State.memRead16, lowByte_word16, highByte_word16]
  rfl

/-! ### What the host reads at an effective address -/

theorem memRead_zeroPageAddr (nn : Byte) (s : State) : s.memRead (zeroPageAddr nn) = s.hostRead nn.toNat := by
  rw [State.memRead, zeroPageAddr, zext16, BitVec.toNat_setWidth, Nat.mod_eq_of_lt (by omega), State.hostRead]

theorem memRead_zeroPageXAddr (nn : Byte) (s : State) :
    s.memRead (zeroPageXAddr nn s) = s.hostRead ((nn.toNat + s.regX.toNat) % 256) := by
  rw [← BitVec.toNat_add]
  exact memRead_zeroPageAddr ..

theorem memRead_zeroPageYAddr (nn : Byte) (s : State) :
    s.memRead (zeroPageYAddr nn s) = s.hostRead ((nn.toNat + s.regY.toNat) % 256) := by
  rw [← BitVec.toNat_add]
  exact memRead_zeroPageAddr ..

theorem memRead_add_zext16 (w : Word) (x : Byte) (s : State) :
    s.memRead (w + zext16 x) = s.hostRead ((w.toNat + x.toNat) % 65536) := by
  rw [State.memRead, zext16, BitVec.toNat_add, BitVec.toNat_setWidth, Nat.mod_eq_of_lt (a := x.toNat) (by omega), State.hostRead]

theorem memRead16_of_hostRead {p t : Word} {s : State}
    (h : t.toNat = (s.hostRead (p.toNat + 1)).toNat * 256 + (s.hostRead p.toNat).toNat) : s.memRead16 p = t := by
  apply memRead16_eq_of_toNat
  rw [h, State.memRead, BitVec.toNat_add]
  congr 3
  exact (Memory.read_mod ..).symm

/-! ### The instruction obligations -/

/-- Settles O30: a load of the literal, and a step at its bytes. -/
theorem ldyImmediate : Obligations.LdyImmediate :=
  ⟨fun _ _ => rfl, fun _ hop => step_of_encoding hop rfl⟩

/-- Settles O31: loads of the byte at the operand, and steps at their bytes. -/
theorem zeroPageLoads : Obligations.ZeroPageLoads := by
  refine ⟨fun nn v s h => ?_, fun _ hop => step_of_encoding hop rfl, fun _ hop => step_of_encoding hop rfl,
    fun _ hop => step_of_encoding hop rfl⟩
  obtain rfl := (memRead_zeroPageAddr nn s).trans h
  exact ⟨rfl, rfl, rfl⟩

/-- Settles O32: loads of the byte at the sum modulo 256, and steps at their bytes. -/
theorem zeroPageIndexedLoads : Obligations.ZeroPageIndexedLoads := by
  refine ⟨fun nn v s h => ?_, fun nn v s h => ?_, fun _ hop => step_of_encoding hop rfl,
    fun _ hop => step_of_encoding hop rfl, fun _ hop => step_of_encoding hop rfl⟩
  · obtain rfl := (memRead_zeroPageXAddr nn s).trans h
    exact ⟨rfl, rfl⟩
  · obtain rfl := (memRead_zeroPageYAddr nn s).trans h
    rfl

/-- Settles O33: loads of the byte at the operand word, and steps at their bytes. -/
theorem absoluteLoads : Obligations.AbsoluteLoads := by
  refine ⟨fun nnnn v s h => ?_, fun s nnnn hword => ?_⟩
  · obtain rfl : s.memRead (absoluteAddr nnnn) = v := h
    exact ⟨rfl, rfl, rfl⟩
  · have hoperands := bytesAt_two_of_toNat hword
    exact ⟨fun hop => step_of_encoding hop hoperands, fun hop => step_of_encoding hop hoperands,
      fun hop => step_of_encoding hop hoperands⟩

/-- Settles O34: loads of the byte at the sum modulo 65536, and steps at their bytes. -/
theorem absoluteIndexedLoads : Obligations.AbsoluteIndexedLoads := by
  refine ⟨fun nnnn v s h => ?_, fun nnnn v s h => ?_, fun s nnnn hword => ?_⟩
  · obtain rfl : s.memRead (absoluteXAddr nnnn s) = v := (memRead_add_zext16 nnnn s.regX s).trans h
    exact ⟨rfl, rfl⟩
  · obtain rfl : s.memRead (absoluteYAddr nnnn s) = v := (memRead_add_zext16 nnnn s.regY s).trans h
    exact ⟨rfl, rfl⟩
  · have hoperands := bytesAt_two_of_toNat hword
    exact ⟨fun hop => step_of_encoding hop hoperands, fun hop => step_of_encoding hop hoperands,
      fun hop => step_of_encoding hop hoperands, fun hop => step_of_encoding hop hoperands⟩

/-- Settles O35: the result is `&&&`, bit by bit, and the step at its bytes. -/
theorem andImmediate : Obligations.AndImmediate :=
  ⟨fun nn s => ⟨s.acc &&& nn, fun _ => BitVec.getLsbD_and, rfl⟩, fun _ hop => step_of_encoding hop rfl⟩

/-- Settles O37: the jump effect on either side of the check, and the step at its bytes. -/
theorem jumpAbsolute : Obligations.JumpAbsolute :=
  ⟨fun _ s h => exec_eq_next_iff.mpr (Effect.apply_jump_of_not_reserved h s),
    fun _ s h => exec_eq_next_iff.mpr (Effect.apply_jump_of_reserved h s),
    fun _ _ hword hop => step_of_encoding hop (bytesAt_two_of_toNat hword)⟩

/-- Settles O38: the jump effect to the word pointed to, on either side of the check, and the step at its bytes. -/
theorem jumpIndirect : Obligations.JumpIndirect := by
  refine ⟨fun p t s hword h => ?_, fun p t s hword h => ?_,
    fun _ _ hword hop => step_of_encoding hop (bytesAt_two_of_toNat hword)⟩
  · rw [exec_eq_next_iff, effectOf, indirectAddr, memRead16_of_hostRead hword, Effect.apply_jump_of_not_reserved h]
  · rw [exec_eq_next_iff, effectOf, indirectAddr, memRead16_of_hostRead hword, Effect.apply_jump_of_reserved h]

/-- Settles O39: each sets its flag, and the steps at their bytes. -/
theorem secAndSed : Obligations.SecAndSed :=
  ⟨fun _ => rfl, fun _ => rfl, fun _ hop => step_of_encoding hop rfl, fun _ hop => step_of_encoding hop rfl⟩

end Sys2Proof.Machine
